-- ==== Sys2Proof/Word.lean ====
section
/-! DEFINITION. The widths the block computes on (00_scope R5, R7): bit 0 is the least significant bit of every value. -/

namespace Sys2Proof

/-- A transition sample, `PAIR_W = 2`: the levels of the two lines after the change (30_encoding R91). -/
abbrev Pair := BitVec 2

/-- A sample byte or a data byte. -/
abbrev Byte := BitVec 8

/-- A protocol word, `WORD_W = 32` (00_scope R5). -/
abbrev Word := BitVec 32

end Sys2Proof
end

