-- ==== Sys2Proof/Config.lean ====
section
/-! DEFINITION. The parameters of the block (00_scope R5), the inputs of one turn (10_state R40 to R47), and the free
values: constants without a body, so that no proof can depend on what they are. -/

namespace Sys2Proof.Config

/-! ### Parameters (00_scope R5) -/

/-- `PAIR_ORDER`: which end of a sample byte holds the oldest pair. -/
inductive PairOrder where
  | oldestHigh
  | oldestLow
deriving DecidableEq, Repr

/-- `PAIR_LINES`: which bit of a pair is the level of line B. -/
inductive PairLines where
  | bHigh
  | aHigh
deriving DecidableEq, Repr

/-- `START_ALIGN`, 1 or 4. -/
inductive StartAlign where
  | one
  | four
deriving DecidableEq, Repr

/-- An authored edge (40_table_builder R131): actions sit on edges. -/
structure Edge where
  next : Nat
  setmask : Byte := 0
  push : Bool := false
  reset : Bool := false
  endFlag : Bool := false
deriving DecidableEq, Repr

/-- `GRAPH`, an authoring graph (40_table_builder R131): the state that is `IDLE`, and for each state four cells, one for
each pair value; `none` where no edge is authored. `NUM_STATES` is the number of rows. -/
structure Graph where
  idle : Nat
  cells : List (List (Option Edge))
deriving DecidableEq, Repr

/-- The numbers of the wire contract: `ADDR_*` (masked, without port bits), `CMD_*`, `RSP_*`, `FUNC_*` (30_encoding R105,
R106, R108, R112). -/
structure Codes where
  addrController : Byte
  addrSub0 : Byte
  addrSub1 : Byte
  cmdRequestDeviceInfo : Byte
  cmdGetCondition : Byte
  cmdGetMediaInfo : Byte
  cmdBlockRead : Byte
  cmdBlockWrite : Byte
  cmdBlockCompleteWrite : Byte
  cmdSetCondition : Byte
  rspDeviceInfo : Byte
  rspAck : Byte
  rspDataTransfer : Byte
  funcController : Word
  funcMemoryCard : Word
  funcLcd : Word
  funcVibration : Word
deriving DecidableEq, Repr

/-- The parameters of the block: every entry of 00_scope R5 whose ground is a decision or general knowledge. Their defaults
are `Sys2Proof.Machine.defaultParams`. `RING_SIZE` is held as its base-2 logarithm, so that it is a power of two whatever the
value (R6). `TPL` is a field of the state. -/
structure Params where
  /-- `PAIR_ORDER`. -/
  pairOrder : PairOrder
  /-- `PAIR_LINES`; the block itself reads pairs only through `GRAPH`. -/
  pairLines : PairLines
  /-- `GRAPH`. -/
  graph : Graph
  /-- `STATE_W`. -/
  stateW : Nat
  /-- `ENTRY_W`. -/
  entryW : Nat
  /-- `ORIDX_W`. -/
  oridxW : Nat
  /-- `RING_SIZE = 2 ^ ringBits` bytes. -/
  ringBits : Nat
  /-- `CURSOR_W`. -/
  cursorW : Nat
  /-- `START_ALIGN`. -/
  startAlign : StartAlign
  /-- `HANDOFF_DEPTH`: entries of the boundary handoff. -/
  handoffDepth : Nat
  /-- `PORT_MASK = 3 << portShift`: the two port bits of an address byte. -/
  portShift : Fin 7
  /-- `ADDR_*`, `CMD_*`, `RSP_*`, `FUNC_*`. -/
  codes : Codes
  /-- `NUM_SEL`: the selector values are `0 .. NUM_SEL - 1`, and `TPL` has an image for each but 0. -/
  numSel : Nat
  /-- `CTRL_DYN_WORDS`: dynamic payload words of the controller status. -/
  ctrlDynWords : Nat
  /-- `VIBCOND_DYN_WORDS`: dynamic payload words of the vibration condition. -/
  vibcondDynWords : Nat
  /-- `AST_WORDS`: data words of an auto-stop-time block read. -/
  astWords : Nat
deriving DecidableEq, Repr

/-- `NUM_STATES`. -/
abbrev Params.numStates (p : Params) : Nat := p.graph.cells.length

/-- `RING_SIZE` in bytes. -/
abbrev Params.ringSize (p : Params) : Nat := 2 ^ p.ringBits

/-- `PKT_MAX_BYTES` (00_scope R5, 43_validator R225). -/
abbrev pktMaxBytes : Nat := 1025

/-- The two agents (00_scope R9). -/
inductive Agent where
  | capture
  | dispatch
deriving DecidableEq, Repr, Inhabited

/-- What the environment supplies for one turn of the machine (10_state R40 to R47). -/
structure EnvInput where
  /-- The reset input `rst` (10_state R47, 70 R370). -/
  rst : Bool := false
  /-- The agent whose turn it is; every interleaving is allowed (93, U10). -/
  agent : Agent
  /-- Transitions that reached the sample source since the turn before, oldest first (R40). -/
  arrivals : List Pair := []
  /-- The sample source lost a transition since the turn before (R41). -/
  lost : Bool := false
  /-- The value drawn for `rd_seen` before a decoder step (R26; 93, U9). -/
  rdSeenDraw : Nat := 0
  /-- The environment is brought to a clean state with this reset: the sample source is emptied and its overrun flag
  cleared (70 R375 (3)). Read only where `rst` is asserted; otherwise R372 leaves the sample source alone. -/
  sourceCleared : Bool := false
  /-- What `Env.TxBusy()` answers in this turn (R42). -/
  txBusy : Bool := false
  /-- The words the environment answers to a data request of this turn (R43, R44, R46). -/
  reply : List Word := []
deriving DecidableEq, Repr, Inhabited

/-- FREE VALUE: the input of turn `tick` when the state's script names none (93, U9, U10, U11). -/
opaque envInput : Nat → EnvInput

/-- FREE VALUE: word `j` of the answer to the data request of turn `tick`, where the turn's input lists no such word
(93, U11). -/
opaque envWord : Nat → Nat → Word

end Sys2Proof.Config
end

