-- ==== Sys2Proof/Machine/Bits.lean ====
section
/-! DEFINITION. Byte order, bit fields, sample packing and cursor arithmetic (00_scope R7, R8; 20_memory R69, R72, R74;
30_encoding R92, R101, R102, R110). -/

namespace Sys2Proof.Machine

/-- `be32(b0, b1, b2, b3)`: the word whose most significant byte is `b0` (00_scope R8). -/
def be32 (b0 b1 b2 b3 : Byte) : Word := b0 ++ b1 ++ b2 ++ b3

/-- The bytes of a word in wire order, most significant first (20_memory R70). -/
def wordBytes (w : Word) : List Byte :=
  [w.extractLsb' 24 8, w.extractLsb' 16 8, w.extractLsb' 8 8, w.extractLsb' 0 8]

/-- The bytes of a list of words in wire order. -/
def wordsBytes (ws : List Word) : List Byte := ws.flatMap wordBytes

/-- Words assembled from bytes four at a time from the first (20_memory R69); a trailing group of fewer than four bytes
belongs to no word (43_validator R227). -/
def bytesToWords : List Byte → List Word
  | b0 :: b1 :: b2 :: b3 :: rest => be32 b0 b1 b2 b3 :: bytesToWords rest
  | _ => []

/-- Exclusive OR of all bytes of a list: the checksum byte of 43_validator R233. -/
def xorBytes : List Byte → Byte
  | [] => 0
  | b :: bs => b ^^^ xorBytes bs

/-- Exclusive OR of all words of a list. -/
def xorWords : List Word → Word
  | [] => 0
  | w :: ws => w ^^^ xorWords ws

/-- `PayloadWordCount = H[31:24]` (30_encoding R101). -/
def hdrCount (h : Word) : Byte := h.extractLsb' 24 8

/-- `Origin = H[23:16]` (30_encoding R101). -/
def hdrOrigin (h : Word) : Byte := h.extractLsb' 16 8

/-- `Destination = H[15:8]` (30_encoding R101). -/
def hdrDest (h : Word) : Byte := h.extractLsb' 8 8

/-- `Command = H[7:0]` (30_encoding R101). -/
def hdrCommand (h : Word) : Byte := h.extractLsb' 0 8

/-- `PORT_MASK`: the two port bits of an address byte; 0xC0 at the default place (30_encoding R102). -/
def portMask (k : Fin 7) : Byte := 3 <<< k.val

/-- The port of an address byte: bits [7:6] at the default place (30_encoding R102). -/
def addrPort (k : Fin 7) (a : Byte) : BitVec 2 := a.extractLsb' k.val 2

/-- An address byte with its port bits masked out (30_encoding R105, 43_validator R231). -/
def addrId (k : Fin 7) (a : Byte) : Byte := a &&& ~~~portMask k

/-- The address byte of a port and a masked address (30_encoding R102). -/
def addrByte (k : Fin 7) (port : BitVec 2) (id : Byte) : Byte := (port.setWidth 8 <<< k.val) ||| id

/-- The port bits of both address fields of a header word: 0x00C0C000 at the default place (30_encoding R117). -/
def headerPorts (k : Fin 7) (p : BitVec 2) : Word := (p.setWidth 32 <<< (16 + k.val)) ||| (p.setWidth 32 <<< (8 + k.val))

/-- `Phase = A[23:16]` of an address word (30_encoding R110). -/
def phaseOf (a : Word) : Byte := a.extractLsb' 16 8

/-- The four pairs of a sample byte, oldest first; at the default order bits [7:6], [5:4], [3:2], [1:0] (30_encoding R92). -/
def samplePairs (o : Config.PairOrder) (b : Byte) : List Pair :=
  match o with
  | .oldestHigh => [b.extractLsb' 6 2, b.extractLsb' 4 2, b.extractLsb' 2 2, b.extractLsb' 0 2]
  | .oldestLow => [b.extractLsb' 0 2, b.extractLsb' 2 2, b.extractLsb' 4 2, b.extractLsb' 6 2]

/-- The sample byte of four pairs, `p0` the oldest (30_encoding R92). -/
def packSample (o : Config.PairOrder) (p0 p1 p2 p3 : Pair) : Byte :=
  match o with
  | .oldestHigh => p0 ++ p1 ++ p2 ++ p3
  | .oldestLow => p3 ++ p2 ++ p1 ++ p0

/-- `c + n` modulo `2 ^ CURSOR_W` (00_scope R7, 20_memory R74). -/
def cursorAdd (w : Nat) (c : Nat) (n : Nat) : Nat := (c + n) % 2 ^ w

/-- `b - a` modulo `2 ^ CURSOR_W`: how far `b` lies ahead of `a` (00_scope R7, 20_memory R74). -/
def cursorSub (w : Nat) (b a : Nat) : Nat := (b + (2 ^ w - a % 2 ^ w)) % 2 ^ w

/-- `START_ALIGN` as a cursor distance. -/
def alignBytes : Config.StartAlign → Nat
  | .one => 1
  | .four => 4

/-- `alignup(x, a) = (x + a - 1) - ((x + a - 1) mod a)` modulo `2 ^ CURSOR_W` (20_memory R72). -/
def alignUp (w : Nat) (x : Nat) (a : Config.StartAlign) : Nat :=
  let y := cursorAdd w x (alignBytes a - 1)
  y - y % alignBytes a

/-- `a <= b` in cursor order: `b` lies less than half of `2 ^ CURSOR_W` ahead of `a` (20_memory R74). -/
def cursorLe (w : Nat) (a b : Nat) : Bool := decide (2 * cursorSub w b a < 2 ^ w)

end Sys2Proof.Machine
end

