-- ==== Sys2Proof/Machine/Codes.lean ====
section
/-! DEFINITION. The numbers of the wire contract: the defaults of the parameters `ADDR_*`, `CMD_*`, `RSP_*` and `FUNC_*`,
the selector values and the fatal causes (30_encoding R105, R106, R108, R112, R113; 60_exceptions R331). -/

namespace Sys2Proof.Machine

/-- The defaults of `ADDR_*` (30_encoding R105), `CMD_*` (R106), `RSP_*` (R112) and `FUNC_*` (R108). -/
def defaultCodes : Config.Codes where
  addrController := 0x20
  addrSub0 := 0x01
  addrSub1 := 0x02
  cmdRequestDeviceInfo := 1
  cmdGetCondition := 9
  cmdGetMediaInfo := 10
  cmdBlockRead := 11
  cmdBlockWrite := 12
  cmdBlockCompleteWrite := 13
  cmdSetCondition := 14
  rspDeviceInfo := 5
  rspAck := 7
  rspDataTransfer := 8
  funcController := 0x00000001
  funcMemoryCard := 0x00000002
  funcLcd := 0x00000004
  funcVibration := 0x00000100

/-- Selector values (30_encoding R113). -/
def selNothing : BitVec 4 := 0
/-- `SEL_CTRL_DEVINFO`. -/
def selCtrlDevinfo : BitVec 4 := 1
/-- `SEL_CTRL_STATUS`. -/
def selCtrlStatus : BitVec 4 := 2
/-- `SEL_MC_DEVINFO`. -/
def selMcDevinfo : BitVec 4 := 3
/-- `SEL_MC_MEDIAINFO`. -/
def selMcMediainfo : BitVec 4 := 4
/-- `SEL_LCD_MEDIAINFO`. -/
def selLcdMediainfo : BitVec 4 := 5
/-- `SEL_MC_BLOCKDATA`. -/
def selMcBlockdata : BitVec 4 := 6
/-- `SEL_MC_ACK`. -/
def selMcAck : BitVec 4 := 7
/-- `SEL_VIB_DEVINFO`. -/
def selVibDevinfo : BitVec 4 := 8
/-- `SEL_VIB_MEDIAINFO`. -/
def selVibMediainfo : BitVec 4 := 9
/-- `SEL_VIB_CONDITION`. -/
def selVibCondition : BitVec 4 := 10
/-- `SEL_VIB_ASTDATA`. -/
def selVibAstdata : BitVec 4 := 11
/-- `SEL_VIB_ACK`. -/
def selVibAck : BitVec 4 := 12

/-- The selector values that name an operation; 13 to 15 are reserved (30_encoding R113). -/
def selValues : Nat := 13

/-- Fatal cause `HANDOFF_OVERFLOW` (60_exceptions R331). -/
def causeHandoffOverflow : BitVec 3 := 1
/-- Fatal cause `SAMPLE_OVERRUN`. -/
def causeSampleOverrun : BitVec 3 := 2
/-- Fatal cause `RING_OVERRUN`. -/
def causeRingOverrun : BitVec 3 := 3
/-- Fatal cause `READ_OUTSTANDING`. -/
def causeReadOutstanding : BitVec 3 := 4

end Sys2Proof.Machine
end

