-- ==== Sys2Proof/Machine/Commands.lean ====
section
/-! DEFINITION. The command tables: routing by the masked Destination, the fifteen request rows, and the codes under which no
packet meets two of them (30_encoding R103 to R109; 44_dispatch R250, R267). -/

namespace Sys2Proof.Machine

/-- The three command tables (44_dispatch R250). -/
inductive CommandTable where
  | ctrl
  | mc
  | vib
deriving DecidableEq, Repr

/-- The address that routes to a table. -/
def tableAddr (c : Config.Codes) : CommandTable → Byte
  | .ctrl => c.addrController
  | .mc => c.addrSub0
  | .vib => c.addrSub1

/-- The table of a masked Destination, compared in this order (44_dispatch R250); `none` is not ours (R269). -/
def routeTo (c : Config.Codes) (dst : Byte) : Option CommandTable :=
  if dst = c.addrController then some .ctrl
  else if dst = c.addrSub0 then some .mc
  else if dst = c.addrSub1 then some .vib
  else none

/-- A real protocol command: positive as a signed byte. A negative or zero Command matches no row (30_encoding R103). -/
def realCommand (cmd : Byte) : Bool := decide (0 < cmd.toInt)

/-- One row of the request tables, as 30_encoding R106 and R109 list them: table, command, the function code where one is
compared, the least PayloadWordCount accepted, and the Phases allowed where the command has an address. -/
structure RequestRow where
  table : CommandTable
  cmd : Byte
  func : Option Word
  minWords : Nat
  phases : Option (List Byte)
deriving DecidableEq, Repr

/-- The fifteen request rows in the order of 44_dispatch R252 to R266. -/
def requestRows (c : Config.Codes) : List RequestRow :=
  [ ⟨.ctrl, c.cmdRequestDeviceInfo, none, 0, none⟩,
    ⟨.mc, c.cmdRequestDeviceInfo, none, 0, none⟩,
    ⟨.vib, c.cmdRequestDeviceInfo, none, 0, none⟩,
    ⟨.ctrl, c.cmdGetCondition, some c.funcController, 1, none⟩,
    ⟨.vib, c.cmdGetCondition, none, 0, none⟩,
    ⟨.mc, c.cmdGetMediaInfo, some c.funcMemoryCard, 1, none⟩,
    ⟨.mc, c.cmdGetMediaInfo, some c.funcLcd, 1, none⟩,
    ⟨.vib, c.cmdGetMediaInfo, none, 0, none⟩,
    ⟨.mc, c.cmdBlockWrite, some c.funcMemoryCard, 34, some [0, 1, 2, 3]⟩,
    ⟨.mc, c.cmdBlockWrite, some c.funcLcd, 3, none⟩,
    ⟨.mc, c.cmdBlockRead, none, 2, some [0]⟩,
    ⟨.vib, c.cmdBlockRead, none, 2, some [0]⟩,
    ⟨.vib, c.cmdBlockWrite, none, 3, some [0, 1, 2, 3]⟩,
    ⟨.mc, c.cmdBlockCompleteWrite, none, 2, some [4]⟩,
    ⟨.vib, c.cmdSetCondition, none, 2, none⟩ ]

/-- The row's condition on the table, the Command, the function code and PayloadWordCount (44_dispatch R250). -/
def RequestRow.holds (r : RequestRow) (c : Config.Codes) (dst cmd : Byte) (payload : List Word) : Bool :=
  routeTo c dst == some r.table && cmd == r.cmd && realCommand cmd && decide (r.minWords ≤ payload.length) &&
    (match r.func with
     | none => true
     | some f => payload[0]? == some f)

/-- The address word `PW[1]` carries a Phase the row's command allows (44_dispatch R267). -/
def RequestRow.phaseAllowed (r : RequestRow) (payload : List Word) : Bool :=
  match r.phases with
  | none => true
  | some ps => ps.contains (phaseOf ((payload[1]?).getD 0))

/-- Some packet reaches the row: a masked Destination routes to its table and its command is a real one. -/
def RequestRow.reachable (k : Fin 7) (c : Config.Codes) (r : RequestRow) : Bool :=
  addrId k (tableAddr c r.table) == tableAddr c r.table && routeTo c (tableAddr c r.table) == some r.table &&
    realCommand r.cmd

/-- Some packet meets both rows. -/
def RequestRow.clash (k : Fin 7) (c : Config.Codes) (r t : RequestRow) : Bool :=
  r.reachable k c && r.table == t.table && r.cmd == t.cmd &&
    (match r.func, t.func with
     | some f, some g => f == g
     | _, _ => true)

/-- No packet meets two rows: "The conditions of rules R252 to R266 are mutually exclusive" (44_dispatch R250;
notes/assumptions/25). -/
def codesLegal (k : Fin 7) (c : Config.Codes) : Bool :=
  decide ((requestRows c).Pairwise fun r t => r.clash k c t = false)

end Sys2Proof.Machine
end

