-- ==== Sys2Proof/Syntax.lean ====
section
/-! DEFINITION. The operations of spec/opcode_table.json, one constructor per row, their operands, and the four code
formats they are fetched from (30_encoding R90, R97, R106, R113). -/

namespace Sys2Proof

/-- The fields of a transition-table entry (30_encoding R95); a DecodeState and a row number are integers (10_state R21). -/
structure Tte where
  next : Nat
  push : Bool
  reset : Bool
  endFlag : Bool
  error : Bool
  oridx : Nat
deriving DecidableEq, Repr

/-- The six places of a decoder step at which a table entry is tested (30_encoding R97), in the order of 41_decoder
R161. The tests are not exclusive: one entry may select several actions. -/
inductive Slot where
  | next
  | reset
  | or
  | push
  | endPkt
  | error
deriving DecidableEq, Repr

/-- What a received packet carries beside the fields that select its request: the three address fields that are
masked out before matching (30_encoding R101, R102, 43_validator R231) and the payload words. `PayloadWordCount` is
the number of payload words. -/
structure Req where
  orgPort : BitVec 2
  orgId : Byte
  dstPort : BitVec 2
  payload : List Word
deriving DecidableEq, Repr

/-- The operations of the block, one constructor per row of the opcode table (00_scope R1). -/
inductive Instr where
  /-- `SAMPLE`: one decoder step on a sample byte (41_decoder R160). -/
  | sample (b : Byte)
  /-- `ACT.NEXT` (R162). -/
  | actNext (next : Nat)
  /-- `ACT.RESET` (R163). -/
  | actReset
  /-- `ACT.OR` (R164). -/
  | actOr (oridx : Nat)
  /-- `ACT.PUSH` (R165); its operand row is the entry's `oridx`. -/
  | actPush (oridx : Nat)
  /-- `ACT.END` (R166). -/
  | actEnd
  /-- `ACT.ERROR` (R168). -/
  | actError
  /-- `RDI.CTRL` (R252). -/
  | rdiCtrl (q : Req)
  /-- `RDI.MC` (R253). -/
  | rdiMc (q : Req)
  /-- `RDI.VIB` (R254). -/
  | rdiVib (q : Req)
  /-- `GETCOND.CTRL` (R255). -/
  | getcondCtrl (q : Req)
  /-- `GETCOND.VIB` (R256). -/
  | getcondVib (q : Req)
  /-- `GETMEDIA.MC` (R257). -/
  | getmediaMc (q : Req)
  /-- `GETMEDIA.LCD` (R258). -/
  | getmediaLcd (q : Req)
  /-- `GETMEDIA.VIB` (R259). -/
  | getmediaVib (q : Req)
  /-- `BWRITE.MC` (R260). -/
  | bwriteMc (q : Req)
  /-- `BWRITE.LCD` (R261). -/
  | bwriteLcd (q : Req)
  /-- `BREAD.MC` (R262). -/
  | breadMc (q : Req)
  /-- `BREAD.VIB` (R263). -/
  | breadVib (q : Req)
  /-- `BWRITE.VIB` (R264). -/
  | bwriteVib (q : Req)
  /-- `BCOMPLETE.MC` (R265). -/
  | bcompleteMc (q : Req)
  /-- `SETCOND.VIB` (R266). -/
  | setcondVib (q : Req)
  /-- `NOTOURS` (R269): the masked Destination and the Command are operands. -/
  | notOurs (q : Req) (dst : Byte) (cmd : Byte)
  /-- `UNREC` (R268). -/
  | unrec (q : Req) (dst : Byte) (cmd : Byte)
  /-- `BADPHASE` (R267). -/
  | badPhase (q : Req) (dst : Byte) (cmd : Byte)
  /-- `SEL_NOTHING` (R311). -/
  | selNothing
  /-- `SEL_CTRL_DEVINFO` (R312). -/
  | selCtrlDevinfo
  /-- `SEL_CTRL_STATUS` (R313). -/
  | selCtrlStatus
  /-- `SEL_MC_DEVINFO` (R314). -/
  | selMcDevinfo
  /-- `SEL_MC_MEDIAINFO` (R315). -/
  | selMcMediainfo
  /-- `SEL_LCD_MEDIAINFO` (R316). -/
  | selLcdMediainfo
  /-- `SEL_MC_BLOCKDATA` (R317). -/
  | selMcBlockdata
  /-- `SEL_MC_ACK` (R318). -/
  | selMcAck
  /-- `SEL_VIB_DEVINFO` (R319). -/
  | selVibDevinfo
  /-- `SEL_VIB_MEDIAINFO` (R320). -/
  | selVibMediainfo
  /-- `SEL_VIB_CONDITION` (R321). -/
  | selVibCondition
  /-- `SEL_VIB_ASTDATA` (R322). -/
  | selVibAstdata
  /-- `SEL_VIB_ACK` (R323). -/
  | selVibAck
deriving DecidableEq, Repr

/-- What the block fetches an operation from: a sample byte, a table entry at one of its six places, a raw packet with
its checksum byte (30_encoding R100), or a selector value (R113). -/
inductive Code where
  | sample (b : Byte)
  | tte (slot : Slot) (w : Nat)
  | packet (raw : List Byte)
  | sel (v : BitVec 4)
deriving DecidableEq, Repr

/-- Why the decoder rejects a code. -/
inductive DecodeError where
  /-- A table entry with `next >= NUM_STATES`, `oridx >= NUM_OR` or a flag combination the builder never makes
  (30_encoding R98). -/
  | reservedEntry
  /-- The entry does not select the action of this place (30_encoding R97). -/
  | notSelected
  /-- A raw packet that fails a length test (43_validator R222 to R224). -/
  | badLength
  /-- A selector value 13 to 15, or not below `NUM_SEL` (30_encoding R113). -/
  | reservedSelector
deriving DecidableEq, Repr

end Sys2Proof
end

