-- ==== Sys2Proof/Machine/Entries.lean ====
section
/-! DEFINITION. The word of a transition-table entry: `oridx`, `error`, `end`, `reset`, `push`, `next` from the most
significant end, `next` in the low `STATE_W` bits and `oridx` above the four flags (30_encoding R95). -/

namespace Sys2Proof

/-- The fields of a table entry; at the default widths `next` is [5:0], `push` [6], `reset` [7], `end` [8], `error` [9] and
`oridx` [15:10]. -/
def unpackTte (p : Config.Params) (w : Nat) : Tte :=
  let flags := w / 2 ^ p.stateW
  { next := w % 2 ^ p.stateW
    push := flags % 2 == 1
    reset := flags / 2 % 2 == 1
    endFlag := flags / 4 % 2 == 1
    error := flags / 8 % 2 == 1
    oridx := flags / 16 }

/-- The word of a table entry. -/
def packTte (p : Config.Params) (e : Tte) : Nat :=
  e.next +
    2 ^ p.stateW * (e.push.toNat + 2 * e.reset.toNat + 4 * e.endFlag.toNat + 8 * e.error.toNat + 16 * e.oridx)

end Sys2Proof
end

