-- ==== Sys2Proof/Machine/Builder.lean ====
section
/-! DEFINITION. The table builder: the edge lookup with its error default, the micro-step, the compilation of one entry, the
OR table, and the graphs the builder refuses (40_table_builder). A pure function of the parameters; it runs before the
capture agent's first step and the decoder never calls it (R130). -/

namespace Sys2Proof.Machine

open Config (PairOrder PairLines Edge Graph Params)

/-- The result of an edge lookup. -/
structure EdgeResult where
  edge : Edge
  error : Bool
deriving DecidableEq, Repr

/-- The error edge: to `IDLE`, nothing but the Error flag (R142). -/
def errorEdge (g : Graph) : EdgeResult where
  edge := { next := g.idle }
  error := true

/-- `TB.EDGE` (R142). -/
def edgeT (g : Graph) (s : Nat) (v : Pair) : EdgeResult :=
  match (g.cells[s]?).bind (fun row => row[v.toNat]?) with
  | some (some e) => { edge := e, error := false }
  | _ => errorEdge g

/-- The walk record of a compilation (R144). -/
structure Walk where
  st : Nat
  cur : Byte := 0
  nxt : Byte := 0
  push : Bool := false
  reset : Bool := false
  endFlag : Bool := false
  error : Bool := false
deriving DecidableEq, Repr

/-- A Reset drops the bits gathered before it (R144). -/
def Walk.onReset (w : Walk) (e : Edge) : Walk :=
  if e.reset then { w with reset := true, cur := 0, nxt := 0 } else w

/-- A bit goes to the byte after the pushed one once the walk has pushed (R144). -/
def Walk.onBit (w : Walk) (e : Edge) : Walk :=
  if w.push then { w with nxt := w.nxt ||| e.setmask } else { w with cur := w.cur ||| e.setmask }

/-- `TB.MICRO` (R144). -/
def micro (g : Graph) (w : Walk) (v : Pair) : Walk :=
  let r := edgeT g w.st v
  let w1 := (w.onReset r.edge).onBit r.edge
  { w1 with
    push := w1.push || r.edge.push
    endFlag := w1.endFlag || r.edge.endFlag
    error := w1.error || r.error
    st := r.edge.next }

/-- `TB.COMPILE` before the OR pair is replaced by its row number (R145). -/
def compile (o : PairOrder) (g : Graph) (s : Nat) (b : Byte) : Walk := (samplePairs o b).foldl (micro g) { st := s }

/-- The OR pair of a walk. -/
def Walk.pair (w : Walk) : Byte × Byte := (w.cur, w.nxt)

/-- The action flags of a walk: push, reset, end, error. -/
def Walk.flags (w : Walk) : Bool × Bool × Bool × Bool := (w.push, w.reset, w.endFlag, w.error)

/-- The entry of state `s` and byte `b`, with `oridx` the row of the walk's pair in `ortab` (R145). -/
def compileEntry (o : PairOrder) (g : Graph) (ortab : List (Byte × Byte)) (s : Nat) (b : Byte) : Tte :=
  let w := compile o g s b
  { next := w.st, push := w.push, reset := w.reset, endFlag := w.endFlag, error := w.error,
    oridx := ortab.idxOf w.pair }

/-- One step of `TB.DEDUP`: append the pair of `(s, b)` if the table lacks it (R147). -/
def dedupStep (o : PairOrder) (g : Graph) (s : Nat) (tab : List (Byte × Byte)) (b : Nat) : List (Byte × Byte) :=
  let w := compile o g s (BitVec.ofNat 8 b)
  if tab.contains w.pair then tab else tab ++ [w.pair]

/-- `TB.DEDUP` over the bytes of one state (R147). -/
def dedupState (o : PairOrder) (g : Graph) (tab : List (Byte × Byte)) (s : Nat) : List (Byte × Byte) :=
  (List.range 256).foldl (dedupStep o g s) tab

/-- `TB.DEDUP`: states upward, inside them bytes upward; row 0 is preset to (0x00, 0x00) (R147). -/
def dedup (o : PairOrder) (g : Graph) : List (Byte × Byte) :=
  (List.range g.cells.length).foldl (dedupState o g) [(0, 0)]

/-- The flag combination occurs in the compiled table of the graph (30_encoding R98). -/
def flagsOccur (o : PairOrder) (g : Graph) (f : Bool × Bool × Bool × Bool) : Bool :=
  (List.range g.cells.length).any fun s => (List.range 256).any fun b => (compile o g s (BitVec.ofNat 8 b)).flags == f

/-! ### Graphs the builder refuses -/

/-- Why the builder refuses a graph. -/
inductive BuildError where
  /-- `IDLE` is not state 0, or the graph has no state (R143). -/
  | idleNotZero
  /-- An edge leads outside the graph (R143). -/
  | badTarget
  /-- An edge sets more than one bit (R143). -/
  | badMask
  /-- More states than `STATE_W` bits number (00_scope R6). -/
  | tooManyStates
  /-- A walk fails a compile assertion (R146). -/
  | badWalk
  /-- More OR rows than `ORIDX_W` bits number (00_scope R6). -/
  | tooManyRows
deriving DecidableEq, Repr

/-- The edges a walk takes. -/
def walkEdges (g : Graph) : Nat → List Pair → List Edge
  | _, [] => []
  | s, v :: vs => (edgeT g s v).edge :: walkEdges g (edgeT g s v).edge.next vs

/-- No edge that satisfies `late` stands after one that satisfies `early`. -/
def neverAfter (late early : Edge → Bool) : List Edge → Bool
  | [] => true
  | e :: es => (!early e || es.all (fun x => !late x)) && neverAfter late early es

/-- The compile assertions (1) to (4) for one state and byte (R146). -/
def walkLegal (o : PairOrder) (g : Graph) (s : Nat) (b : Byte) : Bool :=
  let es := walkEdges g s (samplePairs o b)
  let w := compile o g s b
  decide ((es.filter (fun e => e.push)).length ≤ 1) &&
    neverAfter (fun e => e.reset) (fun e => e.push || e.endFlag) es &&
    neverAfter (fun e => e.push) (fun e => e.endFlag) es &&
    (w.push || w.nxt == 0)

/-- The compile assertions hold for every state and byte (R146). -/
def walksLegal (o : PairOrder) (g : Graph) : Bool :=
  (List.range g.cells.length).all fun s => (List.range 256).all fun b => walkLegal o g s (BitVec.ofNat 8 b)

/-- Every authored edge satisfies the test. -/
def allEdges (g : Graph) (test : Edge → Bool) : Bool :=
  g.cells.all fun row => row.all fun c =>
    match c with
    | none => true
    | some e => test e

/-- The conditions on a graph, in order: the first that fails is why the builder refuses it (R143, R146; 00_scope R6). -/
def graphError (p : Params) : Option BuildError :=
  let g := p.graph
  if g.idle ≠ 0 ∨ p.numStates = 0 then some .idleNotZero
  else if !allEdges g (fun e => decide (e.next < p.numStates)) then some .badTarget
  else if !allEdges g (fun e => (e.setmask &&& (e.setmask - 1)) == 0) then some .badMask
  else if 2 ^ p.stateW < p.numStates then some .tooManyStates
  else if !walksLegal p.pairOrder g then some .badWalk
  else if 2 ^ p.oridxW < (dedup p.pairOrder g).length then some .tooManyRows
  else none

/-! ### The reference graph (R133 to R140) -/

/-- An edge without an action. -/
def go (n : Nat) : Option Edge := some { next := n }
/-- An edge that proves a data bit to be 1. -/
def setBit (n : Nat) (m : Byte) : Option Edge := some { next := n, setmask := m }
/-- An edge that latches bit 0 of a byte as 0. -/
def goPush (n : Nat) : Option Edge := some { next := n, push := true }
/-- An edge that latches bit 0 of a byte as 1. -/
def setPush (n : Nat) (m : Byte) : Option Edge := some { next := n, setmask := m, push := true }
/-- The edge that completes the start pattern. -/
def goReset (n : Nat) : Option Edge := some { next := n, reset := true }
/-- The edge that carries End. -/
def goEnd (n : Nat) : Option Edge := some { next := n, endFlag := true }

/-- The reference graph, the table of R140 row by row: state, then the cells for the pairs 00, 01, 10, 11. -/
def refGraph : Graph where
  idle := 0
  cells := [
    /-  0 IDLE   -/ [go 0, go 0, go 1, go 0],
    /-  1 START1 -/ [go 2, none, none, none],
    /-  2 START2 -/ [none, none, go 3, none],
    /-  3 START3 -/ [go 4, none, none, none],
    /-  4 START4 -/ [none, none, go 5, none],
    /-  5 START5 -/ [go 6, none, none, none],
    /-  6 START6 -/ [none, none, go 7, none],
    /-  7 START7 -/ [go 8, none, none, none],
    /-  8 START8 -/ [none, none, go 9, none],
    /-  9 START9 -/ [none, none, none, goReset 10],
    /- 10 FIRST  -/ [none, go 11, setBit 14 0x80, none],
    /- 11 A0     -/ [go 13, none, none, go 12],
    /- 12 B0     -/ [none, go 35, setBit 14 0x80, none],
    /- 13 C00    -/ [none, none, go 14, none],
    /- 14 D0     -/ [go 16, none, none, go 15],
    /- 15 E0     -/ [none, setBit 17 0x40, none, none],
    /- 16 F00    -/ [none, go 17, none, none],
    /- 17 A1     -/ [go 19, none, none, go 18],
    /- 18 B1     -/ [none, none, setBit 20 0x20, none],
    /- 19 C01    -/ [none, none, go 20, none],
    /- 20 D1     -/ [go 22, none, none, go 21],
    /- 21 E1     -/ [none, setBit 23 0x10, none, none],
    /- 22 F01    -/ [none, go 23, none, none],
    /- 23 A2     -/ [go 25, none, none, go 24],
    /- 24 B2     -/ [none, none, setBit 26 0x08, none],
    /- 25 C02    -/ [none, none, go 26, none],
    /- 26 D2     -/ [go 28, none, none, go 27],
    /- 27 E2     -/ [none, setBit 29 0x04, none, none],
    /- 28 F02    -/ [none, go 29, none, none],
    /- 29 A3     -/ [go 31, none, none, go 30],
    /- 30 B3     -/ [none, none, setBit 32 0x02, none],
    /- 31 C03    -/ [none, none, go 32, none],
    /- 32 D3     -/ [goPush 34, none, none, go 33],
    /- 33 E3     -/ [none, setPush 11 0x01, none, none],
    /- 34 F03    -/ [none, go 11, none, none],
    /- 35 END1   -/ [goEnd 0, none, none, none] ]

/-- The pair with the levels of the two lines exchanged. -/
def swapPair (v : Pair) : Pair := v.extractLsb' 0 1 ++ v.extractLsb' 1 1

/-- The reference graph for either reading of a pair (`PAIR_LINES`): with line A in bit 1 the cells of the pairs 01 and 10
change places. -/
def graphFor (l : PairLines) : Graph :=
  match l with
  | .bHigh => refGraph
  | .aHigh =>
    { refGraph with
      cells := refGraph.cells.map fun row =>
        match row with
        | [c00, c01, c10, c11] => [c00, c10, c01, c11]
        | other => other }

/-- `ORTAB` of the reference graph (R147). -/
def refOrTable : List (Byte × Byte) :=
  [ (0x00, 0x00), (0x80, 0x00), (0xC0, 0x00), (0x40, 0x00), (0x20, 0x00), (0x60, 0x00),
    (0x10, 0x00), (0x30, 0x00), (0x08, 0x00), (0x18, 0x00), (0x04, 0x00), (0x0C, 0x00),
    (0x02, 0x00), (0x06, 0x00), (0x01, 0x00), (0x03, 0x00), (0x00, 0x80), (0x01, 0x80) ]

/-- The nine flag combinations (push, reset, end, error) of the reference table (30_encoding R98). -/
def refFlags : List (Bool × Bool × Bool × Bool) :=
  [ (false, false, false, false), (false, false, false, true), (false, false, true, false),
    (false, false, true, true), (false, true, false, false), (false, true, false, true),
    (true, false, false, false), (true, false, false, true), (true, false, true, false) ]

/-! ### The built tables

For the reference graph in the default pair order the builder's answers are the ones the spec lists: they are written down
here instead of being computed anew in every step. That the two agree is Obligations.ReferenceGraphIsAccepted. -/

/-- The parameters name the reference graph in the default pair order. -/
def isReference (p : Params) : Bool := decide (p.pairOrder = .oldestHigh) && decide (p.graph = refGraph)

/-- The builder's verdict on the parameters: `graphError`. -/
def builderRefuses (p : Params) : Option BuildError :=
  if isReference p then
    if 2 ^ p.stateW < 36 then some .tooManyStates else if 2 ^ p.oridxW < 18 then some .tooManyRows else none
  else graphError p

/-- `ORTAB` of the parameters: `dedup` (R147). -/
def orTable (p : Params) : List (Byte × Byte) := if isReference p then refOrTable else dedup p.pairOrder p.graph

/-- The flag combination occurs in the table of the parameters: `flagsOccur` (30_encoding R98). -/
def flagsLegal (p : Params) (f : Bool × Bool × Bool × Bool) : Bool :=
  if isReference p then refFlags.contains f else flagsOccur p.pairOrder p.graph f

/-- An entry the builder can have made (30_encoding R98). -/
def entryLegal (p : Params) (e : Tte) : Bool :=
  decide (e.next < p.numStates) && decide (e.oridx < (orTable p).length) &&
    flagsLegal p (e.push, e.reset, e.endFlag, e.error)

/-- The word at index `s * 256 + b` of the compiled table (R145; 20_memory R61). -/
def compiledWord (p : Params) (ortab : List (Byte × Byte)) (i : Nat) : Nat :=
  packTte p (compileEntry p.pairOrder p.graph ortab (i / 256) (BitVec.ofNat 8 (i % 256)))

/-- The two constant memories. -/
structure Tables where
  table : List Nat
  ortab : List (Byte × Byte)
deriving DecidableEq, Repr

/-- The builder: the two memories, or the reason for refusing the graph (R130, R143, R146). -/
def buildTables (p : Params) : Except BuildError Tables :=
  match builderRefuses p with
  | some e => .error e
  | none =>
    .ok { table := (List.range (p.numStates * 256)).map (compiledWord p (orTable p)), ortab := orTable p }

/-! ### Defaults -/

/-- The defaults of the parameters (00_scope R5). -/
def defaultParams : Params where
  pairOrder := .oldestHigh
  pairLines := .bHigh
  graph := refGraph
  stateW := 6
  entryW := 16
  oridxW := 6
  ringBits := 12
  cursorW := 32
  startAlign := .one
  handoffDepth := 1
  portShift := 6
  codes := defaultCodes
  numSel := 13
  ctrlDynWords := 2
  vibcondDynWords := 1
  astWords := 1

/-- The constraints of 00_scope R6 that do not need the builder (with the bound of 20_memory R74, `RING_SIZE` not above
`2 ^ CURSOR_W`), and codes under which no packet meets two request rows. A configuration that violates one, or whose graph the builder refuses, has no meaning.
`START_ALIGN` divides `RING_SIZE` because both are powers of two. -/
def paramsLegal (p : Params) : Bool :=
  decide (2 * 1028 ≤ p.ringSize) && decide (p.ringBits ≤ p.cursorW) && decide (1 ≤ p.handoffDepth) &&
    decide (p.stateW + 4 + p.oridxW = p.entryW) && decide (p.numStates ≤ 2 ^ p.stateW) && codesLegal p.portShift p.codes

end Sys2Proof.Machine
end

