-- ==== Sys2Proof/Machine/Checksum.lean ====
section
/-! DEFINITION. The checksum of a list of words and the port bits of a header word (43_validator R234; 45_response_mux R303;
30_encoding R115, R117). -/

namespace Sys2Proof.Machine

/-- The diffusion `c ^= c << 16; c ^= c << 8` on 32 bits (43_validator R234). -/
def diffuse (c : Word) : Word :=
  let c1 := c ^^^ (c <<< 16)
  c1 ^^^ (c1 <<< 8)

/-- `Cks`: exclusive OR of the words, diffused (43_validator R234). -/
def cks (ws : List Word) : Word := diffuse (xorWords ws)

/-- Overwrite both port fields of a header word; at the default place `(h & 0xFF3F3FFF) | (p << 22) | (p << 14)`
(45_response_mux R303). -/
def patchHeader (k : Fin 7) (h : Word) (p : BitVec 2) : Word := (h &&& ~~~headerPorts k 3) ||| headerPorts k p

/-- `WireFrameWordCount = 16n + 19` for `n` payload words (30_encoding R115). -/
def wireFrameWordCount (n : Nat) : Word := BitVec.ofNat 32 (16 * n + 19)

end Sys2Proof.Machine
end

