-- ==== Sys2Proof/Machine/Templates.lean ====
section
/-! DEFINITION. The response catalog: building an image, the dynamic windows, well-formed images, and the images of the reset
state (45_response_mux R290 to R297). -/

namespace Sys2Proof.Machine

/-- `TPL.BUILD` for one image: count word, header, payload, checksum word (45_response_mux R295). -/
def tplBuild (header : Word) (payload : List Word) : List Word :=
  wireFrameWordCount payload.length :: header :: (payload ++ [cks (header :: payload)])

/-- Number of dynamic payload words of a selector's image: the length of the window `DYN`, whose first payload word is
always 1 (45_response_mux R297). -/
def dynLen (cfg : Config.Params) (x : BitVec 4) : Option Nat :=
  if x = selCtrlStatus then some cfg.ctrlDynWords
  else if x = selMcBlockdata then some 129
  else if x = selVibCondition then some cfg.vibcondDynWords
  else if x = selVibAstdata then some (1 + cfg.astWords)
  else none

/-- The image has the number of words its selector needs: `n + 3` with `n = 1 + len` for a dynamic image (R297); a static
one has a count word, a header and a checksum word, and at most 258 words (R300). -/
def imageFits (cfg : Config.Params) (x : BitVec 4) (img : List Word) : Bool :=
  match dynLen cfg x with
  | some len => img.length == len + 4
  | none => decide (3 ≤ img.length) && decide (img.length ≤ 258)

/-- A well-formed image (45_response_mux R293): (a), (b), (c) its size in `OUT[0]` and in the header, (d) port fields zero,
(e) dynamic window zero, (f) the checksum of header and payload. -/
def imageWellFormed (cfg : Config.Params) (x : BitVec 4) (img : List Word) : Bool :=
  imageFits cfg x img &&
    match img with
    | w0 :: h :: rest =>
      let payload := rest.dropLast
      w0 == wireFrameWordCount payload.length &&
        decide ((hdrCount h).toNat = payload.length) &&
        h &&& headerPorts cfg.portShift 3 == 0 &&
        rest.getLast? == some (cks (h :: payload)) &&
        (match dynLen cfg x with
         | some len => (payload.drop 1).take len == List.replicate len 0
         | none => true)
    | _ => false

/-- The catalog has one image for each selector value but 0, and every image is well-formed; image `s` stands at index `s - 1`
(45_response_mux R293; 00_scope R5). -/
def catalogWellFormed (cfg : Config.Params) (tpl : List (List Word)) : Bool :=
  decide (tpl.length = cfg.numSel - 1) &&
    (List.range 15).all fun k =>
      decide (cfg.numSel ≤ k + 1) || imageWellFormed cfg (BitVec.ofNat 4 (k + 1)) ((tpl[k]?).getD [])

/-- The header word of an image: `n` payload words, the responder's address as Origin, the host (0x00) as Destination, and
the response command (45_response_mux R293). -/
def tplHeader (n : Nat) (origin rsp : Byte) : Word := BitVec.ofNat 8 n ++ origin ++ (0 : Byte) ++ rsp

/-- Header and payload of an image. -/
def tplContent (origin rsp : Byte) (payload : List Word) : Word × List Word :=
  (tplHeader payload.length origin rsp, payload)

/-- Header and payload of the twelve images in the reset state: the spec's test configuration `TCFG` (95_test_vectors), with
the response commands of 30_encoding R112. The spec leaves the contents to configuration (45_response_mux R291); this
choice is notes/assumptions/11. -/
def tplContents (cfg : Config.Params) : List (Word × List Word) :=
  let c := cfg.codes
  [ tplContent c.addrController c.rspDeviceInfo (List.replicate 28 0),
    tplContent c.addrController c.rspDataTransfer (c.funcController :: List.replicate cfg.ctrlDynWords 0),
    tplContent c.addrSub0 c.rspDeviceInfo (List.replicate 28 0),
    tplContent c.addrSub0 c.rspDataTransfer (c.funcMemoryCard :: List.replicate 6 0),
    tplContent c.addrSub0 c.rspDataTransfer [c.funcLcd, 0],
    tplContent c.addrSub0 c.rspDataTransfer (c.funcMemoryCard :: List.replicate 129 0),
    tplContent c.addrSub0 c.rspAck [],
    tplContent c.addrSub1 c.rspDeviceInfo (List.replicate 28 0),
    tplContent c.addrSub1 c.rspDataTransfer [c.funcVibration, 0],
    tplContent c.addrSub1 c.rspDataTransfer (c.funcVibration :: List.replicate cfg.vibcondDynWords 0),
    tplContent c.addrSub1 c.rspDataTransfer (c.funcVibration :: List.replicate (1 + cfg.astWords) 0),
    tplContent c.addrSub1 c.rspAck [] ]

/-- The catalog after `TPL.BUILD` (45_response_mux R295), an image for each selector value below `NUM_SEL` but 0. -/
def builtCatalog (cfg : Config.Params) : List (List Word) :=
  ((tplContents cfg).take (cfg.numSel - 1)).map fun c => tplBuild c.1 c.2

end Sys2Proof.Machine
end

