-- ==== Sys2Proof/Machine/State.lean ====
section
/-! DEFINITION. The state of the block as plain data, the requests it makes on its environment, why a step can stop, and the
state after reset (10_state; 20_memory R60; 70 R370). -/

namespace Sys2Proof.Machine

/-- A byte memory: (index, byte) pairs, indices strictly rising, no byte equal to what an unlisted index reads as. -/
abbrev Memory := List Host.Cell

/-- The memory `TABLE`: (index, entry word) pairs, indices strictly rising, no entry equal to what an unlisted index reads as,
which is the word the builder compiles for it (20_memory R61, 40_table_builder R145). A table the builder made lists nothing
(notes/assumptions/12). -/
abbrev TableMemory := List (Nat × Nat)

/-- The unit of an outstanding block read (10_state R33): 0 = MemoryCard, 1 = VibrationPack. -/
inductive ReadUnit where
  | memoryCard
  | vibrationPack
deriving DecidableEq, Repr

/-- A request of the dispatch agent on an interface of the environment (10_state R42 to R46). -/
inductive EnvRequest where
  /-- `Env.TxBusy()` was read. -/
  | txBusy
  /-- `Env.TxStart(words, n)`, `n` the number of words. -/
  | txStart (words : List Word)
  /-- `Env.CtrlSample()`. -/
  | ctrlSample
  /-- `Env.VibCondition()`. -/
  | vibCondition
  /-- `Env.BlkReadData(addr)`. -/
  | blkReadData (addr : Word)
  /-- `Env.AstReadData(addr)`. -/
  | astReadData (addr : Word)
  /-- `Env.BlkWrite(addr, data)`. -/
  | blkWrite (addr : Word) (data : List Word)
  /-- `Env.BlkComplete(addr)`. -/
  | blkComplete (addr : Word)
  /-- `Env.AstWrite(addr, data)`. -/
  | astWrite (addr : Word) (data : List Word)
  /-- `Env.LcdWrite(addr, data)`. -/
  | lcdWrite (addr : Word) (data : List Word)
  /-- `Env.VibSet(word)`. -/
  | vibSet (word : Word)
deriving DecidableEq, Repr

/-- The state of the block and of what the spec names of its environment. -/
structure State where
  /-- The parameters, `GRAPH` among them (00_scope R5); constant. -/
  cfg : Config.Params
  /-- `TABLE` (20_memory R61), index `dstate * 256 + sample`; constant. -/
  table : TableMemory
  /-- `ORTAB` (20_memory R62); constant. -/
  ortab : List (Byte × Byte)
  /-- `TPL`: image `s` at index `s - 1` (20_memory R65); constant after the build. -/
  tpl : List (List Word)
  /-- DecodeState, the block's program counter: an integer of `STATE_W` bits (10_state R21). -/
  dstate : Nat
  /-- The accumulated data byte (R22). -/
  acc : Byte
  /-- Running XOR (R23). -/
  rxor : Byte
  /-- Write cursor (R24); the cursors are integers of `CURSOR_W` bits. -/
  wr : Nat
  /-- Packet start (R25). -/
  pstart : Nat
  /-- The capture agent's copy of `rd_release` (R26). -/
  rdSeen : Nat
  /-- Optional output of the last decoder step (R36). -/
  errPulse : Bool
  /-- `RING` (20_memory R63). -/
  ring : Memory
  /-- `HANDOFF`, oldest entry first (20_memory R66). -/
  handoff : List Nat
  /-- The block has halted (10_state R34). -/
  fatal : Bool
  /-- Code of the first fatal condition (R34). -/
  fatalCause : BitVec 3
  /-- Read cursor (R27). -/
  rd : Nat
  /-- Release cursor (R29). -/
  rdRelease : Nat
  /-- `RAW` (R28). -/
  raw : Memory
  /-- Length of the packet in `RAW` (R28). -/
  rawlen : BitVec 11
  /-- Scratch of the copy-out (42_ring_handoff R202). -/
  oversize : Bool
  /-- Command, signed (10_state R30). -/
  hcmd : Byte
  /-- Destination, port masked (R30). -/
  hdst : Byte
  /-- Origin, port masked (R30). -/
  horg : Byte
  /-- PayloadWordCount (R30). -/
  hnw : Byte
  /-- `PW[0..254]` (R30). -/
  pw : List Word
  /-- The active port (R31). -/
  activePort : BitVec 2
  /-- The "next response" selector (R32). -/
  sel : BitVec 4
  /-- A block read is outstanding (R33). -/
  readOutstanding : Bool
  /-- Its address word (R33). -/
  readAddr : Word
  /-- Its unit (R33). -/
  readUnit : ReadUnit
  /-- `OUT`, the outgoing copy (45_response_mux R298, R300). -/
  out : List Word
  /-- Output of the last dispatch step (10_state R37). -/
  idleOpportunity : Bool
  /-- Transitions the sample source holds, oldest first (R40). -/
  srcPairs : List Pair
  /-- The sample source's sticky overrun flag (R41). -/
  srcOverrun : Bool
  /-- MODEL: the requests made so far, oldest first. -/
  envLog : List EnvRequest
  /-- MODEL: the inputs of the coming turns, as far as they are fixed. -/
  script : List Config.EnvInput
  /-- MODEL: the number of the turn, the index of the free values. -/
  tick : Nat
deriving DecidableEq, Repr

/-- Why the machine stops with a fault. -/
inductive Fault where
  /-- An operation was asked for while `fatal = 1`: neither agent has an enabled step (60_exceptions R340). Raised by
  every meaning, which `step` never calls there. Safe. -/
  | halted (cause : BitVec 3)
deriving DecidableEq, Repr

/-- Why the model has no meaning for a state or a call. -/
inductive Refusal where
  /-- An instruction without a meaning yet; raised by `exec`'s refused arms. Safe. -/
  | notModelled (mnemonic : String)
  /-- A table entry the builder never makes: in `TABLE` (raised by `step`, whatever the entry looked up), or as an operand
  (raised by the decoder family) (30_encoding R98, R118). Safe. -/
  | reservedEntry
  /-- The builder refuses the graph (40_table_builder R143, R146). Raised by `step`. Safe. -/
  | graphRefused (e : BuildError)
  /-- `ORTAB` is not the one the builder makes, or has no row or `TABLE` no entry for a lookup: the tables are not built
  (70 R373). Raised by `step` and by `SAMPLE`. Safe. -/
  | tableNotBuilt
  /-- `TPL` has no image of the selector's size: the templates are not built (70 R374). Raised by the `SEL_*`
  operations run alone; in such a state `step` has no enabled dispatch step. Safe. -/
  | templateNotBuilt
  /-- A configuration outside 00_scope R6, or codes under which a packet meets two request rows (44_dispatch
  R250). Raised by `step`. Safe. -/
  | badConfiguration
  /-- `dstate` is `NUM_STATES` or more (10_state R21; 93, U2). Raised by `step`. Safe. -/
  | reservedDecodeState
  /-- `sel` is 13 to 15, or not below `NUM_SEL` (30_encoding R113; 93, U2). Raised by `step`. Safe. -/
  | reservedSelector
  /-- `fatal_cause` is 5 to 7, or 0 while `fatal = 1` (60_exceptions R331; 93, U2). Raised by `step`. Safe. -/
  | reservedFatalCause
deriving DecidableEq, Repr

/-- What an operation answers. -/
abbrev Result := Host.Outcome State Fault Refusal

/-- The state right after reset (10_state R48, 70 R370), with the constant memories built (70 R373 to R375). -/
def State.reset : State where
  cfg := defaultParams
  table := []
  ortab := refOrTable
  tpl := builtCatalog defaultParams
  dstate := 0
  acc := 0
  rxor := 0
  wr := 0
  pstart := 0
  rdSeen := 0
  errPulse := false
  ring := []
  handoff := []
  fatal := false
  fatalCause := 0
  rd := 0
  rdRelease := 0
  raw := []
  rawlen := 0
  oversize := false
  hcmd := 0
  hdst := 0
  horg := 0
  hnw := 0
  pw := List.replicate 255 0
  activePort := 0
  sel := 0
  readOutstanding := false
  readAddr := 0
  readUnit := .memoryCard
  out := []
  idleOpportunity := false
  srcPairs := []
  srcOverrun := false
  envLog := []
  script := []
  tick := 0

end Sys2Proof.Machine
end

