-- ==== Sys2Proof/Machine/Ops.lean ====
section
/-! DEFINITION. The named operations over memories and registers: byte memories, the ring, the handoff, taking a fatal,
leaving it by reset, dropping a packet, requests to the environment, and the bookkeeping of a turn. -/

namespace Sys2Proof.Machine

/-! ### Sparse memories -/

/-- The value at an index of a memory in sparse form; `dflt` is what an unlisted index reads as. -/
def Sparse.read {α : Type} (dflt : Nat → α) : List (Nat × α) → Nat → α
  | [], i => dflt i
  | (k, v) :: m, i => if k = i then v else Sparse.read dflt m i

/-- Store one value, keeping the canonical form. -/
def Sparse.write {α : Type} [DecidableEq α] (dflt : Nat → α) : List (Nat × α) → Nat → α → List (Nat × α)
  | [], i, v => if v = dflt i then [] else [(i, v)]
  | (k, u) :: m, i, v =>
    if i < k then (if v = dflt i then (k, u) :: m else (i, v) :: (k, u) :: m)
    else if i = k then (if v = dflt i then m else (i, v) :: m)
    else (k, u) :: Sparse.write dflt m i v

/-- The canonical form: indices strictly rising, no value equal to what an unlisted index reads as. -/
abbrev Sparse.wf {α : Type} (dflt : Nat → α) (m : List (Nat × α)) : Prop :=
  m.Pairwise (fun c d => c.1 < d.1) ∧ ∀ c ∈ m, c.2 ≠ dflt c.1

/-! ### Byte memories -/

/-- What a byte that nothing has written reads as. The spec gives RING and RAW no contents after reset (93, U1): DESIGN
CHOICE, notes/assumptions/6 and 7, unsafe. -/
def unwritten : Byte := 0

/-- The byte at an index. -/
def Memory.read (m : Memory) (a : Nat) : Byte := Sparse.read (fun _ => unwritten) m a

/-- Write one byte. -/
def Memory.write (m : Memory) (a : Nat) (v : Byte) : Memory := Sparse.write (fun _ => unwritten) m a v

/-- Write bytes at consecutive indices from `a`. -/
def Memory.writeRun (m : Memory) (a : Nat) : List Byte → Memory
  | [] => m
  | b :: bs => Memory.writeRun (Memory.write m a b) (a + 1) bs

/-- The `n` bytes from index 0. -/
def Memory.prefixBytes (m : Memory) (n : Nat) : List Byte := (List.range n).map (Memory.read m)

/-- The canonical form of a byte memory. -/
abbrev Memory.wf (m : Memory) : Prop := Sparse.wf (fun _ => unwritten) m

/-! ### The transition table -/

/-- The word at an index of `TABLE`. -/
def State.tableWord (s : State) (i : Nat) : Nat := Sparse.read (compiledWord s.cfg s.ortab) s.table i

/-! ### Ring and handoff -/

/-- The ring index of a cursor: `c mod RING_SIZE` (20_memory R63). -/
def State.ringIndex (s : State) (c : Nat) : Nat := c % s.cfg.ringSize

/-- `Ring[c]` (00_scope R8). -/
def State.ringRead (s : State) (c : Nat) : Byte := Memory.read s.ring (s.ringIndex c)

/-- `MemWrite(RING, c mod RING_SIZE, 1, v)`. -/
def State.ringWrite (s : State) (c : Nat) (v : Byte) : State := { s with ring := Memory.write s.ring (s.ringIndex c) v }

/-- The `n` bytes at cursors `c, c + 1, ...` (42_ring_handoff R191). -/
def State.ringRun (s : State) (c : Nat) (n : Nat) : List Byte :=
  (List.range n).map fun i => s.ringRead (cursorAdd s.cfg.cursorW c i)

/-- `Handoff.push(v)` on a queue that has room (42_ring_handoff R197). -/
def State.handoffPush (s : State) (v : Nat) : State := { s with handoff := s.handoff ++ [v] }

/-! ### The input of a turn -/

/-- The input of this turn: the first of the script, or a free value (93, U9 to U11). -/
def State.input (s : State) : Config.EnvInput :=
  match s.script with
  | i :: _ => i
  | [] => Config.envInput s.tick

/-! ### Fatal halt and reset -/

/-- `raise Fatal(code)`: the cause of the first fatal is kept, `fatal` is set, nothing else changes; there is no handler,
no saved register and no return (60_exceptions R340, R342). -/
def State.raiseFatal (s : State) (code : BitVec 3) : State :=
  { s with fatalCause := if s.fatal then s.fatalCause else code, fatal := true }

/-- `rst`: every register takes its reset value, the handoff is emptied (70 R370); it is the only way out of a fatal halt
(70 R372). The constant memories and what lies behind `Env` are untouched (R372). RING, RAW and the scratch registers are
unspecified after it (R370) and take their values of `State.reset` (notes/assumptions/5). The environment may be brought to
a clean state with it (R375 (3)). -/
def State.afterRst (s : State) : State :=
  { State.reset with
    cfg := s.cfg
    table := s.table
    ortab := s.ortab
    tpl := s.tpl
    srcPairs := if s.input.sourceCleared then [] else s.srcPairs
    srcOverrun := s.srcOverrun && !s.input.sourceCleared
    envLog := s.envLog
    script := s.script
    tick := s.tick }

/-- The five silent drops (60_exceptions R336). -/
inductive DropReason where
  | checksum
  | length
  | notOurs
  | unrecognized
  | phase
deriving DecidableEq, Repr

/-- `drop(reason)`: the packet ends with no further change; the reason is stored nowhere (60_exceptions R336, R345). -/
def State.drop (s : State) (_reason : DropReason) : State := s

/-! ### Dispatch registers and requests -/

/-- `sel <- SEL_x`; a pending selection is overwritten (44_dispatch R251). -/
def State.select (s : State) (x : BitVec 4) : State := { s with sel := x }

/-- A request on an interface of the environment. -/
def State.request (s : State) (r : EnvRequest) : State := { s with envLog := s.envLog ++ [r] }

/-! ### The bookkeeping of a turn -/

/-- The sample source takes in the transitions that arrived and remembers a loss (10_state R40, R41). -/
def State.intake (s : State) : State :=
  { s with
    srcPairs := s.srcPairs ++ s.input.arrivals
    srcOverrun := s.srcOverrun || s.input.lost }

/-- The turn is over: the next one has the next input. -/
def State.advance (s : State) : State := { s with script := s.script.tail, tick := s.tick + 1 }

/-! ### Outcomes -/

/-- An operation has a step only while `fatal = 0` (60_exceptions R340). -/
def whenLive (s : State) (r : Result) : Result := if s.fatal then .fault (.halted s.fatalCause) else r

/-- Go on with the next state of an outcome. -/
def andThen (r : Result) (f : State → Result) : Result :=
  match r with
  | .next t => f t
  | .fault e => .fault e
  | .refused e => .refused e

/-- Perform an action of a step unless an earlier one raised a fatal: the step stops at the raising statement
(60_exceptions R340). -/
def State.unlessFatal (s : State) (f : State → State) : State := if s.fatal then s else f s

end Sys2Proof.Machine
end

