-- ==== Sys2Proof/Machine/Flags.lean ====
section
/-! DEFINITION. The conditions the block evaluates. There are no condition codes (10_state R35): each is a function of the
registers at the moment of the step and is latched nowhere. -/

namespace Sys2Proof.Machine

/-- `RING.LAPCHK`: `(wr - rd_seen) mod 2 ^ CURSOR_W >= RING_SIZE` (42_ring_handoff R194). -/
def State.ringLapped (s : State) : Bool := decide (s.cfg.ringSize ≤ cursorSub s.cfg.cursorW s.wr s.rdSeen)

/-- `Handoff.full` (42_ring_handoff R199). -/
def State.handoffFull (s : State) : Bool := s.handoff.length == s.cfg.handoffDepth

/-- `Handoff.empty` (42_ring_handoff R199). -/
def State.handoffEmpty (s : State) : Bool := s.handoff.isEmpty

/-- `rxor == 0` at an End (41_decoder R166): the packet's checksum byte is good (43_validator R233). -/
def State.checksumGood (s : State) : Bool := s.rxor == 0

/-- A value drawn for `rd_seen` is allowed: a cursor with `rd_seen <= x <= rd_release` in cursor order (10_state R26). -/
def State.drawAllowed (s : State) (x : Nat) : Bool :=
  decide (x < 2 ^ s.cfg.cursorW) && cursorLe s.cfg.cursorW s.rdSeen x && cursorLe s.cfg.cursorW x s.rdRelease

/-- The value of `sel` is one of the `NUM_SEL` values and names an operation (00_scope R5, 30_encoding R113). -/
def State.selLegal (s : State) : Bool := decide (s.sel.toNat < s.cfg.numSel) && decide (s.sel.toNat < selValues)

/-- The templates are built: every image satisfies 45_response_mux R293 (70 R374). The dispatch agent has an enabled step only
then (45_response_mux R310). -/
def State.templatesBuilt (s : State) : Bool := catalogWellFormed s.cfg s.tpl

/-- A listed entry of `TABLE` is one the builder can have made, at an index of the table (30_encoding R98). -/
def State.listedLegal (s : State) (c : Nat × Nat) : Bool :=
  decide (c.1 < s.cfg.numStates * 256) && entryLegal s.cfg (unpackTte s.cfg c.2)

/-- Why the model does not admit a state: a configuration outside 00_scope R6; a graph the builder refuses (40_table_builder
R143, R146); a `TABLE` or `ORTAB` the builder does not make (30_encoding R98); a reserved value that no rule writes (93, U2;
30_encoding R118). -/
def State.inadmissible (s : State) : Option Refusal :=
  if !paramsLegal s.cfg then some .badConfiguration
  else
    match builderRefuses s.cfg with
    | some e => some (.graphRefused e)
    | none =>
      if s.ortab ≠ orTable s.cfg then some .tableNotBuilt
      else if !s.table.all s.listedLegal then some .reservedEntry
      else if s.cfg.numStates ≤ s.dstate then some .reservedDecodeState
      else if !s.selLegal then some .reservedSelector
      else if 5 ≤ s.fatalCause.toNat || (s.fatal && s.fatalCause == 0) then some .reservedFatalCause
      else none

end Sys2Proof.Machine
end

