-- ==== Sys2Proof/Machine/Operands.lean ====
section
/-! DEFINITION. Where operations take their operands from: the two constant tables of the decoder, the payload of a request,
the answers of the environment, the response images. -/

namespace Sys2Proof

/-- `PW[k]` of a request (30_encoding R109). -/
def Req.word (q : Req) (k : Nat) : Word := (q.payload[k]?).getD 0

/-- PayloadWordCount of a request. -/
def Req.count (q : Req) : Nat := q.payload.length

end Sys2Proof

namespace Sys2Proof.Machine

/-- `MemRead(TABLE, dstate * 256 + S, 1)` (20_memory R61, 41_decoder R160). -/
def State.tableEntry (s : State) (b : Byte) : Option Tte :=
  if s.dstate < s.cfg.numStates then some (unpackTte s.cfg (s.tableWord (s.dstate * 256 + b.toNat))) else none

/-- `MemRead(ORTAB, oridx, 1)`: the pair (cur, nxt) (30_encoding R96). -/
def State.orRow (s : State) (oridx : Nat) : Option (Byte × Byte) := s.ortab[oridx]?

/-- Word `j` of the environment's answer to this turn's data request; a free value where the input lists none (93, U11). -/
def State.replyWord (s : State) (j : Nat) : Word :=
  match s.input.reply[j]? with
  | some w => w
  | none => Config.envWord s.tick j

/-- The first `n` words of the answer. -/
def State.replyWords (s : State) (n : Nat) : List Word := (List.range n).map s.replyWord

/-- The data request a selector makes when its response is built, if it has a dynamic window (45_response_mux R297). -/
def State.dynRequest (s : State) (x : BitVec 4) : Option EnvRequest :=
  if x = selCtrlStatus then some .ctrlSample
  else if x = selMcBlockdata then some (.blkReadData s.readAddr)
  else if x = selVibCondition then some .vibCondition
  else if x = selVibAstdata then some (.astReadData s.readAddr)
  else none

/-- The words of the dynamic window (45_response_mux R297): the sampled words; for block data the address echo and then
the data words. -/
def State.dynWords (s : State) (x : BitVec 4) : List Word :=
  if x = selCtrlStatus then s.replyWords s.cfg.ctrlDynWords
  else if x = selMcBlockdata then s.readAddr :: s.replyWords 128
  else if x = selVibCondition then s.replyWords s.cfg.vibcondDynWords
  else if x = selVibAstdata then s.readAddr :: s.replyWords s.cfg.astWords
  else []

/-- `TPL[x]` for `x` in 1..12. -/
def State.image (s : State) (x : BitVec 4) : Option (List Word) := s.tpl[x.toNat - 1]?

end Sys2Proof.Machine
end

