-- ==== Sys2Proof/Machine/Decoder.lean ====
section
/-! DEFINITION. The bit-transition decoder: the six decode actions and the decoder step on a sample byte (41_decoder). -/

namespace Sys2Proof.Machine

/-! ### The actions as changes of the state -/

/-- `dstate <- next` (R162). -/
def State.actNext (s : State) (next : Nat) : State := { s with dstate := next }

/-- `wr <- pstart; acc <- 0; rxor <- 0` (R163). -/
def State.actReset (s : State) : State := { s with wr := s.pstart, acc := 0, rxor := 0 }

/-- `acc <- acc | row.cur` (R164). -/
def State.actOr (s : State) (cur : Byte) : State := { s with acc := s.acc ||| cur }

/-- `ACT.PUSH` (R165): the lap check comes before the write (42_ring_handoff R194). -/
def State.actPush (s : State) (nxt : Byte) : State :=
  if s.ringLapped then s.raiseFatal causeRingOverrun
  else { s.ringWrite s.wr s.acc with rxor := s.rxor ^^^ s.acc, acc := nxt, wr := cursorAdd s.cfg.cursorW s.wr 1 }

/-- `ACT.END` (R166): publish the end offset if the running XOR is zero, else nothing; a full handoff is a fatal (42_ring_handoff
R197) that leaves the queue, `pstart` and `wr` alone. -/
def State.actEnd (s : State) : State :=
  if s.checksumGood then
    if s.handoffFull then s.raiseFatal causeHandoffOverflow
    else { s.handoffPush s.wr with pstart := alignUp s.cfg.cursorW s.wr s.cfg.startAlign }
  else s.drop .checksum

/-- `ACT.ERROR` (R168): no state effect but the optional output (10_state R36). -/
def State.actError (s : State) : State := { s with errPulse := true }

/-- The sample-overrun check at the end of a decoder step (R167). -/
def State.overrunCheck (s : State) : State := if s.srcOverrun then s.raiseFatal causeSampleOverrun else s

/-- Before a decoder step `rd_seen` may take any value between itself and `rd_release`: this turn's draw, where it is one
(10_state R26). The one-step output `err_pulse` is 0 until the Error action sets it (R36). -/
def State.beginDecoderStep (s : State) : State :=
  { s with
    rdSeen := if s.drawAllowed s.input.rdSeenDraw then s.input.rdSeenDraw else s.rdSeen
    errPulse := false }

/-- Perform an action a table entry selects, unless a fatal was raised before it. -/
def State.perform (s : State) (selected : Bool) (f : State → State) : State :=
  if selected then s.unlessFatal f else s

/-- The actions of a decoder step in the order NEXT, RESET, OR, PUSH, END, ERROR, overrun check (R160, R161). -/
def State.decStep (s : State) (e : Tte) (row : Byte × Byte) : State :=
  let s1 := s.actNext e.next
  let s2 := s1.perform e.reset State.actReset
  let s3 := s2.actOr row.1
  let s4 := s3.perform e.push (fun t => t.actPush row.2)
  let s5 := s4.perform e.endFlag State.actEnd
  let s6 := s5.perform e.error State.actError
  s6.unlessFatal State.overrunCheck

/-! ### The meanings -/

/-- `SAMPLE` (R160): one decoder step on the sample byte `b`, which has been taken from the sample source. -/
def execSample (b : Byte) (s : State) : Result :=
  whenLive s <|
    match s.tableEntry b with
    | none => .refused .tableNotBuilt
    | some e =>
      if entryLegal s.cfg e then
        match s.orRow e.oridx with
        | none => .refused .tableNotBuilt
        | some row => .next (s.beginDecoderStep.decStep e row)
      else .refused .reservedEntry

/-- `ACT.NEXT` (R162): `next` is always a legal state (10_state R21). -/
def execActNext (next : Nat) (s : State) : Result :=
  whenLive s (if next < s.cfg.numStates then .next (s.actNext next) else .refused .reservedEntry)

/-- `ACT.RESET` (R163). -/
def execActReset (s : State) : Result := whenLive s (.next s.actReset)

/-- `ACT.OR` (R164). -/
def execActOr (oridx : Nat) (s : State) : Result :=
  whenLive s <|
    match s.orRow oridx with
    | none => .refused .reservedEntry
    | some row => .next (s.actOr row.1)

/-- `ACT.PUSH` (R165). -/
def execActPush (oridx : Nat) (s : State) : Result :=
  whenLive s <|
    match s.orRow oridx with
    | none => .refused .reservedEntry
    | some row => .next (s.actPush row.2)

/-- `ACT.END` (R166). -/
def execActEnd (s : State) : Result := whenLive s (.next s.actEnd)

/-- `ACT.ERROR` (R168). -/
def execActError (s : State) : Result := whenLive s (.next s.actError)

end Sys2Proof.Machine
end

