-- ==== Sys2Proof/Machine/Mux.lean ====
section
/-! DEFINITION. The response multiplexer and the transmit scheduler: building the outgoing image, the port patch, acceptance,
and one operation for each selector value (45_response_mux R298 to R323). -/

namespace Sys2Proof.Machine

/-- The outgoing image of a template before the port patch (R298): the copy; where the selector has a dynamic window, which
runs from payload word 1 to the last payload word (R297), header and payload word 0 of the copy, the dynamic words, and
the recomputed checksum word (R301). -/
def muxImage (x : BitVec 4) (s : State) (img : List Word) : List Word :=
  match dynLen s.cfg x with
  | none => img
  | some _ =>
    let body := (img.drop 1).take 2 ++ s.dynWords x
    img.take 1 ++ body ++ [cks body]

/-- `MUX.PATCHPORT` on an image: only the header word changes (R303). -/
def patchPort (k : Fin 7) (p : BitVec 2) : List Word → List Word
  | w0 :: h :: rest => w0 :: patchHeader k h p :: rest
  | short => short

/-- `MUX.BUILD(x)` (R298): one data request where the image is dynamic, then `OUT`. -/
def State.muxBuild (s : State) (x : BitVec 4) (img : List Word) : State :=
  let asked :=
    match s.dynRequest x with
    | none => s
    | some r => s.request r
  { asked with out := patchPort s.cfg.portShift s.activePort (muxImage x s img) }

/-- `ACCEPT` (R309). -/
def State.accept (s : State) (x : BitVec 4) : State :=
  { s with
    readOutstanding := if x = selMcBlockdata ∨ x = selVibAstdata then false else s.readOutstanding
    sel := selNothing }

/-- `SCHED.TRY` for a pending selector `x` (R305): the busy flag is read; a busy transmitter leaves the selection pending, a
free one gets the image, and the transfer is accepted. -/
def trySend (x : BitVec 4) (s : State) : Result :=
  let asked := s.request .txBusy
  if s.input.txBusy then .next asked
  else
    match s.image x with
    | none => .refused .templateNotBuilt
    | some img =>
      if imageFits s.cfg x img then
        let built := asked.muxBuild x img
        .next ((built.request (.txStart built.out)).accept x)
      else .refused .templateNotBuilt

/-- `SEL_NOTHING` (R311): nothing is sent and the busy flag is not read. -/
def execSelNothing (s : State) : Result := whenLive s (.next s)

/-- `SEL_CTRL_DEVINFO` (R312). -/
def execSelCtrlDevinfo (s : State) : Result := whenLive s (trySend selCtrlDevinfo s)

/-- `SEL_CTRL_STATUS` (R313). -/
def execSelCtrlStatus (s : State) : Result := whenLive s (trySend selCtrlStatus s)

/-- `SEL_MC_DEVINFO` (R314). -/
def execSelMcDevinfo (s : State) : Result := whenLive s (trySend selMcDevinfo s)

/-- `SEL_MC_MEDIAINFO` (R315). -/
def execSelMcMediainfo (s : State) : Result := whenLive s (trySend selMcMediainfo s)

/-- `SEL_LCD_MEDIAINFO` (R316). -/
def execSelLcdMediainfo (s : State) : Result := whenLive s (trySend selLcdMediainfo s)

/-- `SEL_MC_BLOCKDATA` (R317). -/
def execSelMcBlockdata (s : State) : Result := whenLive s (trySend selMcBlockdata s)

/-- `SEL_MC_ACK` (R318). -/
def execSelMcAck (s : State) : Result := whenLive s (trySend selMcAck s)

/-- `SEL_VIB_DEVINFO` (R319). -/
def execSelVibDevinfo (s : State) : Result := whenLive s (trySend selVibDevinfo s)

/-- `SEL_VIB_MEDIAINFO` (R320). -/
def execSelVibMediainfo (s : State) : Result := whenLive s (trySend selVibMediainfo s)

/-- `SEL_VIB_CONDITION` (R321). -/
def execSelVibCondition (s : State) : Result := whenLive s (trySend selVibCondition s)

/-- `SEL_VIB_ASTDATA` (R322). -/
def execSelVibAstdata (s : State) : Result := whenLive s (trySend selVibAstdata s)

/-- `SEL_VIB_ACK` (R323). -/
def execSelVibAck (s : State) : Result := whenLive s (trySend selVibAck s)

end Sys2Proof.Machine
end

