-- ==== Sys2Proof/Machine/Requests.lean ====
section
/-! DEFINITION. What each request does (44_dispatch R252 to R269). A meaning is total on its operands: one that does not meet
the conditions of its row is dropped as the row says (too few words or another function code: UNREC; a Phase the command
does not allow: BADPHASE). -/

namespace Sys2Proof.Machine

/-- Select a response (44_dispatch R251). -/
def answer (x : BitVec 4) (s : State) : Result := .next (s.select x)

/-- Hand data to the environment and select the acknowledgement. -/
def hand (r : EnvRequest) (x : BitVec 4) (s : State) : Result := .next ((s.request r).select x)

/-- A block command's Phase test, made before anything else the command does (44_dispatch R267, 60_exceptions R341). -/
def withPhase (ok : Bool) (s : State) (r : Result) : Result := if ok then r else .next (s.drop .phase)

/-- The row's condition on the payload; otherwise UNREC (44_dispatch R268). -/
def recognized (ok : Bool) (s : State) (r : Result) : Result := if ok then r else .next (s.drop .unrecognized)

/-- Begin the single outstanding block read (44_dispatch R262): a second one is a fatal (60_exceptions R335). -/
def State.beginRead (s : State) (a : Word) (u : ReadUnit) (x : BitVec 4) : State :=
  if s.readOutstanding then s.raiseFatal causeReadOutstanding
  else { s with readOutstanding := true, readAddr := a, readUnit := u, sel := x }

/-- `RDI.CTRL` (R252). -/
def execRdiCtrl (_q : Req) (s : State) : Result := whenLive s (answer selCtrlDevinfo s)

/-- `RDI.MC` (R253). -/
def execRdiMc (_q : Req) (s : State) : Result := whenLive s (answer selMcDevinfo s)

/-- `RDI.VIB` (R254). -/
def execRdiVib (_q : Req) (s : State) : Result := whenLive s (answer selVibDevinfo s)

/-- `GETCOND.CTRL` (R255): the sampling happens when the response is built. -/
def execGetcondCtrl (q : Req) (s : State) : Result :=
  whenLive s (recognized (q.payload[0]? == some s.cfg.codes.funcController) s (answer selCtrlStatus s))

/-- `GETCOND.VIB` (R256). -/
def execGetcondVib (_q : Req) (s : State) : Result := whenLive s (answer selVibCondition s)

/-- `GETMEDIA.MC` (R257). -/
def execGetmediaMc (q : Req) (s : State) : Result :=
  whenLive s (recognized (q.payload[0]? == some s.cfg.codes.funcMemoryCard) s (answer selMcMediainfo s))

/-- `GETMEDIA.LCD` (R258). -/
def execGetmediaLcd (q : Req) (s : State) : Result :=
  whenLive s (recognized (q.payload[0]? == some s.cfg.codes.funcLcd) s (answer selLcdMediainfo s))

/-- `GETMEDIA.VIB` (R259). -/
def execGetmediaVib (_q : Req) (s : State) : Result := whenLive s (answer selVibMediainfo s)

/-- `BWRITE.MC` (R260): the 32 words of one phase; further words are ignored. -/
def execBwriteMc (q : Req) (s : State) : Result :=
  whenLive s <|
    recognized (q.payload[0]? == some s.cfg.codes.funcMemoryCard && decide (34 ≤ q.count)) s <|
      withPhase (decide ((phaseOf (q.word 1)).toNat ≤ 3)) s <|
        hand (.blkWrite (q.word 1) ((q.payload.drop 2).take 32)) selMcAck s

/-- `BWRITE.LCD` (R261): no Phase test. -/
def execBwriteLcd (q : Req) (s : State) : Result :=
  whenLive s <|
    recognized (q.payload[0]? == some s.cfg.codes.funcLcd && decide (3 ≤ q.count)) s <|
      hand (.lcdWrite (q.word 1) (q.payload.drop 2)) selMcAck s

/-- `BREAD.MC` (R262). -/
def execBreadMc (q : Req) (s : State) : Result :=
  whenLive s <|
    recognized (decide (2 ≤ q.count)) s <|
      withPhase (phaseOf (q.word 1) == 0) s <|
        .next (s.beginRead (q.word 1) .memoryCard selMcBlockdata)

/-- `BREAD.VIB` (R263). -/
def execBreadVib (q : Req) (s : State) : Result :=
  whenLive s <|
    recognized (decide (2 ≤ q.count)) s <|
      withPhase (phaseOf (q.word 1) == 0) s <|
        .next (s.beginRead (q.word 1) .vibrationPack selVibAstdata)

/-- `BWRITE.VIB` (R264). -/
def execBwriteVib (q : Req) (s : State) : Result :=
  whenLive s <|
    recognized (decide (3 ≤ q.count)) s <|
      withPhase (decide ((phaseOf (q.word 1)).toNat ≤ 3)) s <|
        hand (.astWrite (q.word 1) (q.payload.drop 2)) selVibAck s

/-- `BCOMPLETE.MC` (R265): Phase 4 is the sentinel. -/
def execBcompleteMc (q : Req) (s : State) : Result :=
  whenLive s <|
    recognized (decide (2 ≤ q.count)) s <|
      withPhase (phaseOf (q.word 1) == 4) s <|
        hand (.blkComplete (q.word 1)) selMcAck s

/-- `SETCOND.VIB` (R266): the condition word is passed whole. -/
def execSetcondVib (q : Req) (s : State) : Result :=
  whenLive s <|
    recognized (decide (2 ≤ q.count)) s <|
      hand (.vibSet (q.word 1)) selVibAck s

/-- `NOTOURS` (R269). -/
def execNotOurs (_q : Req) (_dst : Byte) (_cmd : Byte) (s : State) : Result := whenLive s (.next (s.drop .notOurs))

/-- `UNREC` (R268). -/
def execUnrec (_q : Req) (_dst : Byte) (_cmd : Byte) (s : State) : Result :=
  whenLive s (.next (s.drop .unrecognized))

/-- `BADPHASE` (R267). -/
def execBadPhase (_q : Req) (_dst : Byte) (_cmd : Byte) (s : State) : Result := whenLive s (.next (s.drop .phase))

end Sys2Proof.Machine
end

