-- ==== Sys2Proof/Machine/Dispatch.lean ====
section
/-! DEFINITION. The dispatch of every operation of the opcode table to its meaning. -/

namespace Sys2Proof.Machine

def exec (i : Instr) (s : State) : Host.Outcome State Fault Refusal :=
  match i with
  | .sample b => Sys2Proof.Machine.execSample b s
  | .actNext next => Sys2Proof.Machine.execActNext next s
  | .actReset => Sys2Proof.Machine.execActReset s
  | .actOr oridx => Sys2Proof.Machine.execActOr oridx s
  | .actPush oridx => Sys2Proof.Machine.execActPush oridx s
  | .actEnd => Sys2Proof.Machine.execActEnd s
  | .actError => Sys2Proof.Machine.execActError s
  | .rdiCtrl q => Sys2Proof.Machine.execRdiCtrl q s
  | .rdiMc q => Sys2Proof.Machine.execRdiMc q s
  | .rdiVib q => Sys2Proof.Machine.execRdiVib q s
  | .getcondCtrl q => Sys2Proof.Machine.execGetcondCtrl q s
  | .getcondVib q => Sys2Proof.Machine.execGetcondVib q s
  | .getmediaMc q => Sys2Proof.Machine.execGetmediaMc q s
  | .getmediaLcd q => Sys2Proof.Machine.execGetmediaLcd q s
  | .getmediaVib q => Sys2Proof.Machine.execGetmediaVib q s
  | .bwriteMc q => Sys2Proof.Machine.execBwriteMc q s
  | .bwriteLcd q => Sys2Proof.Machine.execBwriteLcd q s
  | .breadMc q => Sys2Proof.Machine.execBreadMc q s
  | .breadVib q => Sys2Proof.Machine.execBreadVib q s
  | .bwriteVib q => Sys2Proof.Machine.execBwriteVib q s
  | .bcompleteMc q => Sys2Proof.Machine.execBcompleteMc q s
  | .setcondVib q => Sys2Proof.Machine.execSetcondVib q s
  | .notOurs q dst cmd => Sys2Proof.Machine.execNotOurs q dst cmd s
  | .unrec q dst cmd => Sys2Proof.Machine.execUnrec q dst cmd s
  | .badPhase q dst cmd => Sys2Proof.Machine.execBadPhase q dst cmd s
  | .selNothing => Sys2Proof.Machine.execSelNothing s
  | .selCtrlDevinfo => Sys2Proof.Machine.execSelCtrlDevinfo s
  | .selCtrlStatus => Sys2Proof.Machine.execSelCtrlStatus s
  | .selMcDevinfo => Sys2Proof.Machine.execSelMcDevinfo s
  | .selMcMediainfo => Sys2Proof.Machine.execSelMcMediainfo s
  | .selLcdMediainfo => Sys2Proof.Machine.execSelLcdMediainfo s
  | .selMcBlockdata => Sys2Proof.Machine.execSelMcBlockdata s
  | .selMcAck => Sys2Proof.Machine.execSelMcAck s
  | .selVibDevinfo => Sys2Proof.Machine.execSelVibDevinfo s
  | .selVibMediainfo => Sys2Proof.Machine.execSelVibMediainfo s
  | .selVibCondition => Sys2Proof.Machine.execSelVibCondition s
  | .selVibAstdata => Sys2Proof.Machine.execSelVibAstdata s
  | .selVibAck => Sys2Proof.Machine.execSelVibAck s

end Sys2Proof.Machine
end

