-- ==== Sys2Proof/WellFormed.lean ====
section
/-! DEFINITION. Which terms of `Instr` stand for an operation the block can meet: operands inside the encodings of the given
parameters, and for a request the conditions of its row (30_encoding R98, R105, R106, R109; 44_dispatch R252 to R269). -/

namespace Sys2Proof

/-- The masked Destination routes to one of the three command tables (30_encoding R105). -/
def isOurs (c : Config.Codes) (dst : Byte) : Bool := (Machine.routeTo c dst).isSome

/-- The byte is a masked address: its port bits are zero (30_encoding R102, R105). -/
def isMasked (p : Config.Params) (a : Byte) : Bool := Machine.addrId p.portShift a == a

/-- PayloadWordCount is an 8-bit field, and the origin is masked (30_encoding R101, R102). -/
def Req.fits (p : Config.Params) (q : Req) : Bool := decide (q.payload.length ≤ 255) && isMasked p q.orgId

/-- The request meets row `k` of `requestRows`, Phase included, and a masked Destination reaches the row. -/
def Req.meets (p : Config.Params) (q : Req) (k : Nat) : Bool :=
  q.fits p &&
    match (Machine.requestRows p.codes)[k]? with
    | none => false
    | some r =>
      isMasked p (Machine.tableAddr p.codes r.table) &&
        r.holds p.codes (Machine.tableAddr p.codes r.table) r.cmd q.payload && r.phaseAllowed q.payload

/-! ### Table entries -/

/-- A table entry that selects only the actions every entry selects. -/
def plainTte : Tte where
  next := 0
  push := false
  reset := false
  endFlag := false
  error := false
  oridx := 0

/-- The entry that selects one decode action beside the two that every entry selects: NEXT to state 0 and OR with row 0
(30_encoding R97). -/
def nextTte (n : Nat) : Tte := { plainTte with next := n }
/-- The entry of `ACT.RESET`. -/
def resetTte : Tte := { plainTte with reset := true }
/-- The entry of `ACT.OR`. -/
def orTte (o : Nat) : Tte := { plainTte with oridx := o }
/-- The entry of `ACT.PUSH`. -/
def pushTte (o : Nat) : Tte := { plainTte with push := true, oridx := o }
/-- The entry of `ACT.END`. -/
def endTte : Tte := { plainTte with endFlag := true }
/-- The entry of `ACT.ERROR`. -/
def errorTte : Tte := { plainTte with error := true }

/-- Well-formedness, row by row. -/
def wellFormed (p : Config.Params) : Instr → Bool
  | .sample _ => true
  | .actNext n => Machine.entryLegal p (nextTte n)
  | .actReset => Machine.entryLegal p resetTte
  | .actOr o => Machine.entryLegal p (orTte o)
  | .actPush o => Machine.entryLegal p (pushTte o)
  | .actEnd => Machine.entryLegal p endTte
  | .actError => Machine.entryLegal p errorTte
  | .rdiCtrl q => q.meets p 0
  | .rdiMc q => q.meets p 1
  | .rdiVib q => q.meets p 2
  | .getcondCtrl q => q.meets p 3
  | .getcondVib q => q.meets p 4
  | .getmediaMc q => q.meets p 5
  | .getmediaLcd q => q.meets p 6
  | .getmediaVib q => q.meets p 7
  | .bwriteMc q => q.meets p 8
  | .bwriteLcd q => q.meets p 9
  | .breadMc q => q.meets p 10
  | .breadVib q => q.meets p 11
  | .bwriteVib q => q.meets p 12
  | .bcompleteMc q => q.meets p 13
  | .setcondVib q => q.meets p 14
  | .notOurs q d _ => q.fits p && isMasked p d && !isOurs p.codes d
  | .unrec q d c =>
    q.fits p && isMasked p d && isOurs p.codes d &&
      !(Machine.requestRows p.codes).any (fun r => r.holds p.codes d c q.payload)
  | .badPhase q d c =>
    q.fits p && isMasked p d &&
      (Machine.requestRows p.codes).any (fun r => r.holds p.codes d c q.payload && !r.phaseAllowed q.payload)
  | .selNothing => decide (0 < p.numSel)
  | .selCtrlDevinfo => decide (1 < p.numSel)
  | .selCtrlStatus => decide (2 < p.numSel)
  | .selMcDevinfo => decide (3 < p.numSel)
  | .selMcMediainfo => decide (4 < p.numSel)
  | .selLcdMediainfo => decide (5 < p.numSel)
  | .selMcBlockdata => decide (6 < p.numSel)
  | .selMcAck => decide (7 < p.numSel)
  | .selVibDevinfo => decide (8 < p.numSel)
  | .selVibMediainfo => decide (9 < p.numSel)
  | .selVibCondition => decide (10 < p.numSel)
  | .selVibAstdata => decide (11 < p.numSel)
  | .selVibAck => decide (12 < p.numSel)

end Sys2Proof
end

