-- ==== Sys2Proof/Decode.lean ====
section
/-! DEFINITION. The decoder, total on every code, and after it the encoder written from the same formats (30_encoding R95
to R113; 43_validator R220 to R231; 44_dispatch R250). -/

namespace Sys2Proof

open Machine

/-! ### Table entries -/

/-- Does the entry select the action of this place (30_encoding R97)? -/
def Tte.selects (e : Tte) : Slot → Bool
  | .next => true
  | .reset => e.reset
  | .or => true
  | .push => e.push
  | .endPkt => e.endFlag
  | .error => e.error

/-- The action of a place, with its operand from the entry. -/
def Tte.action (e : Tte) : Slot → Instr
  | .next => .actNext e.next
  | .reset => .actReset
  | .or => .actOr e.oridx
  | .push => .actPush e.oridx
  | .endPkt => .actEnd
  | .error => .actError

/-- The actions an entry selects, in the order a decoder step performs them (41_decoder R161). -/
def Tte.actions (e : Tte) : List Instr :=
  ([Slot.next, .reset, .or, .push, .endPkt, .error].filter e.selects).map e.action

/-! ### Requests -/

/-- A block command with a Phase it does not allow is `BADPHASE` (44_dispatch R267). -/
def phaseGate (ok : Byte → Bool) (q : Req) (dst : Byte) (cmd : Byte) (i : Instr) : Instr :=
  if ok (phaseOf ((q.payload[1]?).getD 0)) then i else .badPhase q dst cmd

/-- The controller's command table (44_dispatch R252, R255). -/
def matchCtrl (c : Config.Codes) (q : Req) (dst cmd : Byte) : Instr :=
  if cmd = c.cmdRequestDeviceInfo then .rdiCtrl q
  else if cmd = c.cmdGetCondition ∧ q.payload[0]? = some c.funcController then .getcondCtrl q
  else .unrec q dst cmd

/-- The memory card's command table (44_dispatch R253, R257, R258, R260 to R262, R265). -/
def matchMc (c : Config.Codes) (q : Req) (dst cmd : Byte) : Instr :=
  let n := q.payload.length
  let f := q.payload[0]?
  if cmd = c.cmdRequestDeviceInfo then .rdiMc q
  else if cmd = c.cmdGetMediaInfo ∧ f = some c.funcMemoryCard then .getmediaMc q
  else if cmd = c.cmdGetMediaInfo ∧ f = some c.funcLcd then .getmediaLcd q
  else if cmd = c.cmdBlockWrite ∧ f = some c.funcMemoryCard ∧ 34 ≤ n then
    phaseGate (fun p => decide (p.toNat ≤ 3)) q dst cmd (.bwriteMc q)
  else if cmd = c.cmdBlockWrite ∧ f = some c.funcLcd ∧ 3 ≤ n then .bwriteLcd q
  else if cmd = c.cmdBlockRead ∧ 2 ≤ n then
    phaseGate (fun p => p == 0) q dst cmd (.breadMc q)
  else if cmd = c.cmdBlockCompleteWrite ∧ 2 ≤ n then
    phaseGate (fun p => p == 4) q dst cmd (.bcompleteMc q)
  else .unrec q dst cmd

/-- The vibration pack's command table (44_dispatch R254, R256, R259, R263, R264, R266). -/
def matchVib (c : Config.Codes) (q : Req) (dst cmd : Byte) : Instr :=
  let n := q.payload.length
  if cmd = c.cmdRequestDeviceInfo then .rdiVib q
  else if cmd = c.cmdGetCondition then .getcondVib q
  else if cmd = c.cmdGetMediaInfo then .getmediaVib q
  else if cmd = c.cmdBlockRead ∧ 2 ≤ n then
    phaseGate (fun p => p == 0) q dst cmd (.breadVib q)
  else if cmd = c.cmdBlockWrite ∧ 3 ≤ n then
    phaseGate (fun p => decide (p.toNat ≤ 3)) q dst cmd (.bwriteVib q)
  else if cmd = c.cmdSetCondition ∧ 2 ≤ n then .setcondVib q
  else .unrec q dst cmd

/-- `MATCH`: route by the masked Destination, then by Command, function code and PayloadWordCount (44_dispatch R250); a
Command that is no real one matches no row (30_encoding R103). -/
def matchRequest (c : Config.Codes) (q : Req) (dst cmd : Byte) : Instr :=
  match routeTo c dst with
  | none => .notOurs q dst cmd
  | some t =>
    if realCommand cmd then
      match t with
      | .ctrl => matchCtrl c q dst cmd
      | .mc => matchMc c q dst cmd
      | .vib => matchVib c q dst cmd
    else .unrec q dst cmd

/-- The words of a raw packet (header first, checksum byte left out), if it passes both length tests (43_validator R220
to R225): `L mod 4 = 1`, `L - 1 <> 0`, and `L - 1 = (PayloadWordCount + 1) * 4`. -/
def packetWords (raw : List Byte) : Option (List Word) :=
  if raw.length % 4 ≠ 1 then none
  else
    match bytesToWords raw with
    | [] => none
    | h :: ws => if raw.length - 1 = ((hdrCount h).toNat + 1) * 4 then some (h :: ws) else none

/-- The fields of a validated packet: operands, masked Destination, Command (43_validator R228 to R231). -/
def requestOf (p : Config.Params) (h : Word) (ws : List Word) : Instr :=
  matchRequest p.codes
    { orgPort := addrPort p.portShift (hdrOrigin h)
      orgId := addrId p.portShift (hdrOrigin h)
      dstPort := addrPort p.portShift (hdrDest h)
      payload := ws }
    (addrId p.portShift (hdrDest h)) (hdrCommand h)

/-! ### Selector values -/

/-- The operation a selector value names; 13 to 15 are reserved (30_encoding R113). -/
def selOperation (v : BitVec 4) : Option Instr :=
  match v.toNat with
  | 0 => some .selNothing
  | 1 => some .selCtrlDevinfo
  | 2 => some .selCtrlStatus
  | 3 => some .selMcDevinfo
  | 4 => some .selMcMediainfo
  | 5 => some .selLcdMediainfo
  | 6 => some .selMcBlockdata
  | 7 => some .selMcAck
  | 8 => some .selVibDevinfo
  | 9 => some .selVibMediainfo
  | 10 => some .selVibCondition
  | 11 => some .selVibAstdata
  | 12 => some .selVibAck
  | _ => none

/-- The operation of one of the `NUM_SEL` selector values (00_scope R5, 30_encoding R113). -/
def decodeSel (p : Config.Params) (v : BitVec 4) : Option Instr := if v.toNat < p.numSel then selOperation v else none

/-! ### The decoder -/

/-- The decoder, total: every code is an operation or is rejected by name. -/
def decode (p : Config.Params) : Code → Except DecodeError Instr
  | .sample b => .ok (.sample b)
  | .tte slot w =>
    let e := unpackTte p w
    if !entryLegal p e then .error .reservedEntry
    else if !e.selects slot then .error .notSelected
    else .ok (e.action slot)
  | .packet raw =>
    match packetWords raw with
    | some (h :: ws) => .ok (requestOf p h ws)
    | _ => .error .badLength
  | .sel v =>
    match decodeSel p v with
    | some i => .ok i
    | none => .error .reservedSelector

/-! ### The encoder -/

/-- The header word `{n, Origin, Destination, Command}` (30_encoding R101, R102). -/
def headerWord (k : Fin 7) (q : Req) (dst : Byte) (cmd : Byte) : Word :=
  BitVec.ofNat 8 q.payload.length ++ addrByte k q.orgPort q.orgId ++ addrByte k q.dstPort dst ++ cmd

/-- The raw packet of a list of words: their bytes, then the exclusive OR of those bytes (30_encoding R100, R119). -/
def rawOfWords (ws : List Word) : List Byte := wordsBytes ws ++ [xorBytes (wordsBytes ws)]

/-- The raw packet of a request. -/
def encodeReq (k : Fin 7) (q : Req) (dst : Byte) (cmd : Byte) : Code :=
  .packet (rawOfWords (headerWord k q dst cmd :: q.payload))

/-- The code of an operation, written from the formats of 30_encoding. -/
def encode (p : Config.Params) : Instr → Code
  | .sample b => .sample b
  | .actNext n => .tte .next (packTte p (nextTte n))
  | .actReset => .tte .reset (packTte p resetTte)
  | .actOr o => .tte .or (packTte p (orTte o))
  | .actPush o => .tte .push (packTte p (pushTte o))
  | .actEnd => .tte .endPkt (packTte p endTte)
  | .actError => .tte .error (packTte p errorTte)
  | .rdiCtrl q => encodeReq p.portShift q p.codes.addrController p.codes.cmdRequestDeviceInfo
  | .rdiMc q => encodeReq p.portShift q p.codes.addrSub0 p.codes.cmdRequestDeviceInfo
  | .rdiVib q => encodeReq p.portShift q p.codes.addrSub1 p.codes.cmdRequestDeviceInfo
  | .getcondCtrl q => encodeReq p.portShift q p.codes.addrController p.codes.cmdGetCondition
  | .getcondVib q => encodeReq p.portShift q p.codes.addrSub1 p.codes.cmdGetCondition
  | .getmediaMc q => encodeReq p.portShift q p.codes.addrSub0 p.codes.cmdGetMediaInfo
  | .getmediaLcd q => encodeReq p.portShift q p.codes.addrSub0 p.codes.cmdGetMediaInfo
  | .getmediaVib q => encodeReq p.portShift q p.codes.addrSub1 p.codes.cmdGetMediaInfo
  | .bwriteMc q => encodeReq p.portShift q p.codes.addrSub0 p.codes.cmdBlockWrite
  | .bwriteLcd q => encodeReq p.portShift q p.codes.addrSub0 p.codes.cmdBlockWrite
  | .breadMc q => encodeReq p.portShift q p.codes.addrSub0 p.codes.cmdBlockRead
  | .breadVib q => encodeReq p.portShift q p.codes.addrSub1 p.codes.cmdBlockRead
  | .bwriteVib q => encodeReq p.portShift q p.codes.addrSub1 p.codes.cmdBlockWrite
  | .bcompleteMc q => encodeReq p.portShift q p.codes.addrSub0 p.codes.cmdBlockCompleteWrite
  | .setcondVib q => encodeReq p.portShift q p.codes.addrSub1 p.codes.cmdSetCondition
  | .notOurs q d c => encodeReq p.portShift q d c
  | .unrec q d c => encodeReq p.portShift q d c
  | .badPhase q d c => encodeReq p.portShift q d c
  | .selNothing => .sel Machine.selNothing
  | .selCtrlDevinfo => .sel Machine.selCtrlDevinfo
  | .selCtrlStatus => .sel Machine.selCtrlStatus
  | .selMcDevinfo => .sel Machine.selMcDevinfo
  | .selMcMediainfo => .sel Machine.selMcMediainfo
  | .selLcdMediainfo => .sel Machine.selLcdMediainfo
  | .selMcBlockdata => .sel Machine.selMcBlockdata
  | .selMcAck => .sel Machine.selMcAck
  | .selVibDevinfo => .sel Machine.selVibDevinfo
  | .selVibMediainfo => .sel Machine.selVibMediainfo
  | .selVibCondition => .sel Machine.selVibCondition
  | .selVibAstdata => .sel Machine.selVibAstdata
  | .selVibAck => .sel Machine.selVibAck

/-! ### Words of the opcode table -/

/-- The place of a table entry that stands for it in the opcode table, whose tests are not exclusive: the first of
RESET, PUSH, END, ERROR it selects; without a flag, OR where a row other than 0 is named, else NEXT. -/
def tableSlot (p : Config.Params) (w : Nat) : Slot :=
  let e := unpackTte p w
  if e.reset then .reset
  else if e.push then .push
  else if e.endFlag then .endPkt
  else if e.error then .error
  else if e.oridx ≠ 0 then .or
  else .next

/-- The raw packet that a header word and a payload of zeros make. -/
def tablePacket (h : Word) : List Byte := rawOfWords (h :: List.replicate (hdrCount h).toNat 0)

/-- The code that a word of the opcode table stands for. The table's formats have 8, 16, 32 and 4 bits; a selector
value comes in a whole byte like a sample byte, and a byte below 13 is taken as the selector value. -/
def tableCode (p : Config.Params) (nbits w : Nat) : Option Code :=
  if nbits = 4 then some (.sel (BitVec.ofNat 4 w))
  else if nbits = 8 then
    if w < 13 then some (.sel (BitVec.ofNat 4 w)) else some (.sample (BitVec.ofNat 8 w))
  else if nbits = 16 then some (.tte (tableSlot p w) w)
  else if nbits = 32 then some (.packet (tablePacket (BitVec.ofNat 32 w)))
  else none

/-- The operation the decoder reads from a word of the opcode table, at the default parameters. -/
def decodeTableWord (nbits w : Nat) : Option Instr :=
  match tableCode defaultParams nbits w with
  | none => none
  | some c =>
    match decode defaultParams c with
    | .ok i => some i
    | .error _ => none

end Sys2Proof
end

