-- ==== Sys2Proof/Machine/Ring.lean ====
section
/-! DEFINITION. The copy-out of one packet from the ring (42_ring_handoff R198, R202, R203). -/

namespace Sys2Proof.Machine

/-- `HO.POP` and `RING.COPYOUT` for the popped end offset `endOff` with `rest` left in the queue: a run of at most `PKT_MAX_BYTES`
bytes is copied into `RAW`, a longer one is only released (R202, R203). -/
def State.copyOut (s : State) (endOff : Nat) (rest : List Nat) : State :=
  let len := cursorSub s.cfg.cursorW endOff s.rd
  let next := alignUp s.cfg.cursorW endOff s.cfg.startAlign
  if len ≤ Config.pktMaxBytes then
    { s with
      handoff := rest
      raw := Memory.writeRun s.raw 0 (s.ringRun s.rd len)
      rawlen := BitVec.ofNat 11 len
      oversize := false
      rd := next
      rdRelease := next }
  else
    { s with
      handoff := rest
      rawlen := 0
      oversize := true
      rd := next
      rdRelease := next }

/-- The bytes of the packet in `RAW`: `RAW[0 .. rawlen - 1]`. -/
def State.rawBytes (s : State) : List Byte := Memory.prefixBytes s.raw s.rawlen.toNat

end Sys2Proof.Machine
end

