-- ==== Sys2Proof/Machine/Validator.lean ====
section
/-! DEFINITION. The packet validator and header parse (43_validator R220 to R231), and the request the matcher reads from the
registers it leaves (44_dispatch R250). -/

namespace Sys2Proof.Machine

/-- A packet passed both length tests: the header fields, the active port, the masked addresses and the payload words are
written (43_validator R220, R228 to R231); words of `PW` beyond the payload keep their values. -/
def State.parsed (s : State) (h : Word) (ws : List Word) : State :=
  { s with
    hnw := hdrCount h
    horg := addrId s.cfg.portShift (hdrOrigin h)
    hdst := addrId s.cfg.portShift (hdrDest h)
    hcmd := hdrCommand h
    activePort := addrPort s.cfg.portShift (hdrOrigin h)
    pw := ws ++ s.pw.drop ws.length }

/-- `VAL` (43_validator R220): the state with the parsed packet, or `none` for `drop(LENGTH)`. -/
def State.validate (s : State) : Option State :=
  if s.oversize then none
  else
    match packetWords s.rawBytes with
    | some (h :: ws) => some (s.parsed h ws)
    | _ => none

/-- The request in the registers: Command, masked Destination and `PW[0 .. hnw - 1]` select it (44_dispatch R250); the origin
and the destination's port are carried along. -/
def State.pendingRequest (s : State) : Instr :=
  matchRequest s.cfg.codes
    { orgPort := s.activePort
      orgId := s.horg
      dstPort := addrPort s.cfg.portShift (Memory.read s.raw 2)
      payload := s.pw.take s.hnw.toNat }
    s.hdst s.hcmd

end Sys2Proof.Machine
end

