-- ==== Sys2Proof/Machine/Agents.lean ====
section
/-! DEFINITION. One turn of each agent, and where a code is placed so that the next turn fetches it (00_scope R9; 41_decoder
R160; 45_response_mux R305, R310). -/

namespace Sys2Proof.Machine

/-! ### The capture agent -/

/-- `Env.SampleTake()`: the oldest four transitions, if four have been observed (10_state R40), and the state without
them. -/
def State.takeSample (s : State) : Option (Byte × State) :=
  match s.srcPairs with
  | p0 :: p1 :: p2 :: p3 :: rest => some (packSample s.cfg.pairOrder p0 p1 p2 p3, { s with srcPairs := rest })
  | _ => none

/-- A turn of the capture agent: `DEC.STEP` if a sample byte is available; otherwise the agent polls on and nothing changes
(41_decoder R160, 60_exceptions R339). -/
def captureTurn (s : State) : Result :=
  match s.takeSample with
  | none => .next s
  | some (b, t) => exec (.sample b) t

/-! ### The dispatch agent -/

/-- The packet part of `DISPATCH.STEP` for a popped end offset: copy-out, validator, matcher (45_response_mux R310). -/
def packetPart (s : State) (endOff : Nat) (rest : List Nat) : Result :=
  let copied := s.copyOut endOff rest
  match copied.validate with
  | none => .next (copied.drop .length)
  | some t => exec t.pendingRequest t

/-- `SCHED.TRY` (R305); skipped if the packet part raised a fatal (R310). -/
def schedTry (s : State) : Result :=
  if s.fatal then .next s
  else
    match decodeSel s.cfg s.sel with
    | none => .refused .reservedSelector
    | some i => exec i s

/-- `idle_opportunity <- idle`, the last assignment of a step that raised no fatal (R310, 60_exceptions R340). -/
def State.reportIdle (s : State) (idle : Bool) : State := if s.fatal then s else { s with idleOpportunity := idle }

/-- The body of `DISPATCH.STEP` (R310). -/
def dispatchStep (s : State) : Result :=
  match s.handoff with
  | [] => andThen (schedTry s) fun t => .next (t.reportIdle true)
  | endOff :: rest =>
    andThen (packetPart s endOff rest) fun t =>
      andThen (schedTry t) fun u => .next (u.reportIdle false)

/-- A turn of the dispatch agent: `DISPATCH.STEP` is enabled only when the templates are built (R310, 70 R374); before that the
turn changes nothing. -/
def dispatchTurn (s : State) : Result := if s.templatesBuilt then dispatchStep s else .next s

/-! ### One turn of the machine -/

/-- The turn of the agent the input names; after a fatal neither agent has an enabled step (60_exceptions R340). -/
def agentTurn (s : State) : Result :=
  if s.fatal then .next s
  else
    match s.input.agent with
    | .capture => captureTurn s
    | .dispatch => dispatchTurn s

/-- One turn: what the sample source observed comes in; then reset if it is asserted (no agent steps under `rst`, 70 R370),
else the agent's turn; then the next turn's input is due. A state with a reserved value is refused (30_encoding R118). -/
def turn (s : State) : Result :=
  match s.inadmissible with
  | some r => .refused r
  | none =>
    let t := s.intake
    if t.input.rst then .next t.afterRst.advance
    else andThen (agentTurn t) fun u => .next u.advance

/-! ### Placing a code where the next turn fetches it -/

/-- The input of a turn of `a` in which nothing arrives and the transmitter is free. -/
def turnOf (a : Config.Agent) : Config.EnvInput := { agent := a }

/-- Place a code. A sample byte: as the oldest transitions of the sample source, with a capture turn. A table entry: as the
entry of the present DecodeState and sample byte 0x00, with that byte and a capture turn. A raw packet: in the ring at `rd`,
published, with a dispatch turn. A selector value: in `sel`, with a dispatch turn that finds no packet. -/
def State.placeCode (s : State) : Code → State
  | .sample b => { s with srcPairs := samplePairs s.cfg.pairOrder b ++ s.srcPairs, script := [turnOf .capture] }
  | .tte _ w =>
    { s with
      table := Sparse.write (compiledWord s.cfg s.ortab) s.table (s.dstate * 256) w
      srcPairs := samplePairs s.cfg.pairOrder 0 ++ s.srcPairs
      script := [turnOf .capture] }
  | .packet raw =>
    let written := raw.zipIdx.foldl (fun t bi => t.ringWrite (cursorAdd s.cfg.cursorW s.rd bi.2) bi.1) s
    { written with handoff := [cursorAdd s.cfg.cursorW s.rd raw.length], script := [turnOf .dispatch] }
  | .sel v => { s with sel := v, handoff := [], script := [turnOf .dispatch] }

/-- Place the code of a word of the opcode table. -/
def State.placeTableWord (s : State) (nbits w : Nat) : State :=
  match tableCode s.cfg nbits w with
  | none => s
  | some c => s.placeCode c

end Sys2Proof.Machine
end

