-- ==== Sys2Proof/Machine/Step.lean ====
section
/-! DEFINITION. The step of the machine and the placement of an operation for the next step. -/

namespace Sys2Proof.Machine

/-- One turn of one agent (00_scope R9). -/
def step (s : State) : Host.Outcome State Fault Refusal := turn s

/-- The state with a word of the opcode table placed where the next step fetches it. -/
def State.withFetchWord (s : State) (nbits w : Nat) : State := s.placeTableWord nbits w

end Sys2Proof.Machine
end

