-- ==== Sys2Proof/Machine/Storage.lean ====
section
/-! DEFINITION. The contract of the block storage behind `Env`, which the spec records so that a model can build a concrete one
(44_dispatch R270 to R274). No rule of the core depends on it and the machine does not use it: `Env.BlkReadData` is a free
answer there. -/

namespace Sys2Proof.Machine

/-- The memory-card image: `CARD_BYTES` = 128 KiB, `BLOCK_BYTES` = 512 in 256 blocks, `PHASE_BYTES` = 128 (R270). -/
abbrev CardImage := Memory

/-- `BLOCK_BYTES`. -/
def blockBytes : Nat := 512
/-- `PHASE_BYTES`. -/
def phaseBytes : Nat := 128
/-- `CARD_BYTES`. -/
def cardBytes : Nat := 131072

/-- `Partition = A[31:24]`, decoded and unused (R271). -/
def partitionOf (a : Word) : Byte := a.extractLsb' 24 8

/-- `Block = A[15:0]` of a write (R273). -/
def writeBlock (a : Word) : Nat := (a.extractLsb' 0 16).toNat

/-- The block of a read: the low 8 bits only (R272). -/
def readBlock (a : Word) : Nat := (a.extractLsb' 0 8).toNat

/-- `ENV_WRITE_OOR`: what a write to a block outside the image does (93, U4); `ignore` is the default. -/
inductive WriteOutOfRange where
  | ignore
  | reduce
deriving DecidableEq, Repr

/-- `Env.BlkWrite(A, d)`: the phase-sized chunk goes to `Block * BlockSize + Phase * PhaseSize`, bytes of a word most
significant first (R270, R273). A block outside the image leaves it unchanged or is reduced modulo 256 (93, U4). -/
def cardWrite (oor : WriteOutOfRange) (img : CardImage) (a : Word) (data : List Word) : CardImage :=
  match oor with
  | .ignore =>
    if 256 ≤ writeBlock a then img
    else Memory.writeRun img (writeBlock a * blockBytes + (phaseOf a).toNat * phaseBytes) (wordsBytes data)
  | .reduce =>
    Memory.writeRun img (writeBlock a % 256 * blockBytes + (phaseOf a).toNat * phaseBytes) (wordsBytes data)

/-- `Env.BlkComplete(A)`: the sector is marked dirty and the write is finalized; no byte of the image changes (R274). -/
def cardComplete (img : CardImage) (_a : Word) : CardImage := img

/-- `Env.BlkReadData(A)`: the 128 words of block `A[7:0]` (R272). -/
def cardRead (img : CardImage) (a : Word) : List Word :=
  bytesToWords ((List.range blockBytes).map fun i => Memory.read img (readBlock a * blockBytes + i))

end Sys2Proof.Machine
end

