-- ==== Sys2Proof/Machine/Wire.lean ====
section
/-! DEFINITION. The wire side that claims about the decoder are stated with: the canonical encoder `Enc` of a byte stream,
sample packing, requests in field form (30_encoding R92, R93, R119), and the decoder that consumes one pair at a time
(41_decoder R169). -/

namespace Sys2Proof.Machine

/-! ### The encoder -/

/-- A pair from the levels of lines B and A (30_encoding R91). -/
def levels (l : Config.PairLines) (b a : Bool) : Pair :=
  match l with
  | .bHigh => BitVec.ofBool b ++ BitVec.ofBool a
  | .aHigh => BitVec.ofBool a ++ BitVec.ofBool b

/-- The transitions of one bit pair (`hi`, `lo`), starting with line B at level `b` and line A high; they end with B low and
A high (30_encoding R93). -/
def encGroup (l : Config.PairLines) (b hi lo : Bool) : List Pair :=
  (if b = hi then [] else [levels l hi true]) ++ [levels l hi false] ++
    (if hi then [] else [levels l true false]) ++ (if lo then [levels l true true] else []) ++
    [levels l false lo] ++ (if lo then [] else [levels l false true])

/-- The transitions of one byte, most significant bits first. -/
def encByte (l : Config.PairLines) (b : Bool) (d : Byte) : List Pair :=
  encGroup l b (d.getLsbD 7) (d.getLsbD 6) ++ encGroup l false (d.getLsbD 5) (d.getLsbD 4) ++
    encGroup l false (d.getLsbD 3) (d.getLsbD 2) ++ encGroup l false (d.getLsbD 1) (d.getLsbD 0)

/-- The transitions of the data bytes; line B is high only before the first. -/
def encBytes (l : Config.PairLines) : Bool → List Byte → List Pair
  | _, [] => []
  | b, d :: ds => encByte l b d ++ encBytes l false ds

/-- A sequence of line levels (B, A). -/
def levelRun (l : Config.PairLines) (run : List (Bool × Bool)) : List Pair := run.map fun c => levels l c.1 c.2

/-- The ten transitions of the start pattern: 10, 00, 10, 00, 10, 00, 10, 00, 10, 11. -/
def startPattern (l : Config.PairLines) : List Pair :=
  levelRun l
    [(true, false), (false, false), (true, false), (false, false), (true, false), (false, false), (true, false),
      (false, false), (true, false), (true, true)]

/-- The seven transitions of the end pattern: 11, 01, 00, 01, 00, 01, 11. -/
def endPattern (l : Config.PairLines) : List Pair :=
  levelRun l
    [(true, true), (false, true), (false, false), (false, true), (false, false), (false, true), (true, true)]

/-- `Enc(data)`, for at least one byte (30_encoding R93). -/
def enc (l : Config.PairLines) (data : List Byte) : List Pair := startPattern l ++ encBytes l true data ++ endPattern l

/-- `PACK`: four pairs to a sample byte; fewer than four are left over (30_encoding R92, R119). -/
def packPairs (o : Config.PairOrder) : List Pair → List Byte × List Pair
  | p0 :: p1 :: p2 :: p3 :: rest =>
    let r := packPairs o rest
    (packSample o p0 p1 p2 p3 :: r.1, r.2)
  | left => ([], left)

/-- The bytes of `REQ(cmd, dst, org, words)` (30_encoding R119). -/
def reqBytes (cmd dst org : Byte) (ws : List Word) : List Byte :=
  rawOfWords ((BitVec.ofNat 8 ws.length ++ org ++ dst ++ cmd) :: ws)

/-- Decoder steps on a list of sample bytes. -/
def runSamples : List Byte → State → Result
  | [], s => .next s
  | b :: bs, s => andThen (execSample b s) (runSamples bs)

/-- The bytes a transfer puts on the wire: the words after the count word most significant byte first, of the checksum word
only its top byte (45_response_mux R292). -/
def wireBytes (out : List Word) : List Byte :=
  wordsBytes (out.drop 1).dropLast ++ [(out.getLastD 0).extractLsb' 24 8]

/-! ### One pair at a time -/

/-- What `Run1` does with an edge: Reset, the bit, Push, End, then the next state (41_decoder R169). -/
def State.takeEdge (s : State) (e : Config.Edge) : State :=
  let s1 := if e.reset then s.actReset else s
  let s2 := s1.actOr e.setmask
  let s3 :=
    if e.push then
      { s2.ringWrite s2.wr s2.acc with rxor := s2.rxor ^^^ s2.acc, acc := 0, wr := cursorAdd s2.cfg.cursorW s2.wr 1 }
    else s2
  let s4 :=
    if e.endFlag ∧ s3.checksumGood then
      { s3.handoffPush s3.wr with pstart := alignUp s3.cfg.cursorW s3.wr s3.cfg.startAlign }
    else s3
  { s4 with dstate := e.next }

/-- `Run1(state, v)`: the decoder that consumes one pair (41_decoder R169); it makes no fatal check. -/
def State.run1 (g : Config.Graph) (s : State) (v : Pair) : State := s.takeEdge (edgeT g s.dstate v).edge

/-- `Run1` on a list of pairs. -/
def State.runPairs (g : Config.Graph) (s : State) (vs : List Pair) : State := vs.foldl (State.run1 g) s

end Sys2Proof.Machine
end

