-- ==== Sys2Proof/Safety.lean ====
section
/-! DEFINITION. The terms claims about the block are stated in: which part of the state an agent owns, legal states, the
invariants of the cursors and of the published packets, and the composition of decode actions. -/

namespace Sys2Proof

/-- The operations of the capture agent: the sample byte and the six decode actions (41_decoder R160 to R168). -/
def Instr.ofCapture : Instr → Bool
  | .sample _ | .actNext _ | .actReset | .actOr _ | .actPush _ | .actEnd | .actError => true
  | .rdiCtrl _ | .rdiMc _ | .rdiVib _ | .getcondCtrl _ | .getcondVib _ | .getmediaMc _ | .getmediaLcd _
  | .getmediaVib _ | .bwriteMc _ | .bwriteLcd _ | .breadMc _ | .breadVib _ | .bwriteVib _ | .bcompleteMc _
  | .setcondVib _ | .notOurs _ _ _ | .unrec _ _ _ | .badPhase _ _ _ => false
  | .selNothing | .selCtrlDevinfo | .selCtrlStatus | .selMcDevinfo | .selMcMediainfo | .selLcdMediainfo
  | .selMcBlockdata | .selMcAck | .selVibDevinfo | .selVibMediainfo | .selVibCondition | .selVibAstdata
  | .selVibAck => false

end Sys2Proof

namespace Sys2Proof.Machine

/-! ### Ownership (10_state R20, 60_exceptions R346) -/

/-- The constant memories and sizes are the same. -/
structure SameConstants (s t : State) : Prop where
  cfg : t.cfg = s.cfg
  table : t.table = s.table
  ortab : t.ortab = s.ortab
  tpl : t.tpl = s.tpl

/-- The capture agent's registers and the ring are the same. -/
structure SameCapture (s t : State) : Prop where
  dstate : t.dstate = s.dstate
  acc : t.acc = s.acc
  rxor : t.rxor = s.rxor
  wr : t.wr = s.wr
  pstart : t.pstart = s.pstart
  rdSeen : t.rdSeen = s.rdSeen
  errPulse : t.errPulse = s.errPulse
  ring : t.ring = s.ring

/-- The registers, buffers and requests of the dispatch agent are the same. -/
structure SameDispatch (s t : State) : Prop where
  rd : t.rd = s.rd
  rdRelease : t.rdRelease = s.rdRelease
  raw : t.raw = s.raw
  rawlen : t.rawlen = s.rawlen
  oversize : t.oversize = s.oversize
  hcmd : t.hcmd = s.hcmd
  hdst : t.hdst = s.hdst
  horg : t.horg = s.horg
  hnw : t.hnw = s.hnw
  pw : t.pw = s.pw
  activePort : t.activePort = s.activePort
  sel : t.sel = s.sel
  readOutstanding : t.readOutstanding = s.readOutstanding
  readAddr : t.readAddr = s.readAddr
  readUnit : t.readUnit = s.readUnit
  out : t.out = s.out
  idleOpportunity : t.idleOpportunity = s.idleOpportunity
  envLog : t.envLog = s.envLog

/-- What the environment holds and the turn's bookkeeping are the same. -/
structure SameSource (s t : State) : Prop where
  srcPairs : t.srcPairs = s.srcPairs
  srcOverrun : t.srcOverrun = s.srcOverrun
  script : t.script = s.script
  tick : t.tick = s.tick

/-! ### Built tables -/

/-- The tables are the ones the builder makes of the parameters (40_table_builder R145, R147; 70 R373). -/
structure BuiltTables (s : State) : Prop where
  accepted : builderRefuses s.cfg = none
  ortab : s.ortab = orTable s.cfg
  table : s.table = []

/-- The tables are those of the reference graph, in either pair order (40_table_builder R133 to R140). -/
structure ReferenceTables (s : State) : Prop where
  graph : s.cfg.graph = refGraph
  built : BuiltTables s

/-! ### Legal states -/

/-- The cursors of the block: the five registers and the entries of the handoff. -/
def State.cursors (s : State) : List Nat := s.rdSeen :: s.rdRelease :: s.rd :: s.pstart :: s.wr :: s.handoff

/-- Every cursor has `CURSOR_W` bits (00_scope R5, 10_state R24 to R29, 30_encoding R99). -/
abbrev State.CursorsFit (s : State) : Prop := ∀ c ∈ s.cursors, c < 2 ^ s.cfg.cursorW

/-- Distance of a cursor from `rd_seen`, modulo `2 ^ CURSOR_W`. -/
def State.ahead (s : State) (c : Nat) : Nat := cursorSub s.cfg.cursorW c s.rdSeen

/-- The registers hold values the rules allow (10_state R21, R28, R30, R32 to R34; 42_ring_handoff R196, R204): nothing
reserved, a cause only with a fatal, a block-data selection only with its read outstanding, `rd_release = rd`, `rd` and `pstart`
multiples of `START_ALIGN`, and cursors of `CURSOR_W` bits. -/
structure LegalState (s : State) : Prop where
  admissible : s.inadmissible = none
  cause : s.fatal = false → s.fatalCause = 0
  depth : s.handoff.length ≤ s.cfg.handoffDepth
  rawlen : s.rawlen.toNat ≤ Config.pktMaxBytes
  words : s.pw.length = 255
  masked : s.hdst &&& portMask s.cfg.portShift = 0 ∧ s.horg &&& portMask s.cfg.portShift = 0
  cardRead : s.sel = selMcBlockdata → s.readOutstanding = true ∧ s.readUnit = .memoryCard
  vibRead : s.sel = selVibAstdata → s.readOutstanding = true ∧ s.readUnit = .vibrationPack
  released : s.rdRelease = s.rd
  fit : s.CursorsFit
  aligned : s.rd % alignBytes s.cfg.startAlign = 0 ∧ s.pstart % alignBytes s.cfg.startAlign = 0

/-- The byte memories have their canonical form and hold nothing outside their size (20_memory R60). -/
structure MemoriesFit (s : State) : Prop where
  ringForm : Memory.wf s.ring
  rawForm : Memory.wf s.raw
  ringSize : ∀ c ∈ s.ring, c.1 < s.cfg.ringSize
  rawSize : ∀ c ∈ s.raw, c.1 < Config.pktMaxBytes

/-! ### Cursors and published packets -/

/-- The cursor invariants of 42_ring_handoff R204 for `START_ALIGN = 1`, where the published end offsets are the packet
starts, and a ring of at most half of `2 ^ CURSOR_W`: `rd_seen <= rd_release = rd <= q[0] <= ... <= pstart <= wr` and
`wr - rd_seen <= RING_SIZE`. (With `START_ALIGN = 4` the first line of R204 does not hold between a publishing End and the
next Reset: vector D7 has `rd = 16` and `wr = 13`.) -/
structure CursorInv (s : State) : Prop where
  align : s.cfg.startAlign = .one
  size : s.cfg.ringBits < s.cfg.cursorW
  fit : s.CursorsFit
  released : s.rdRelease = s.rd
  ordered : (s.rd :: s.handoff ++ [s.pstart, s.wr]).Pairwise (fun a b => s.ahead a ≤ s.ahead b)
  room : s.ahead s.wr ≤ s.cfg.ringSize

/-- The published runs, from `start` on: each has byte-XOR zero, each starts where the one before ended, and the last ends
at `pstart` (42_ring_handoff R192, 43_validator R226). -/
def RunsGood (s : State) : Nat → List Nat → Prop
  | start, [] => start = s.pstart
  | start, e :: es => xorBytes (s.ringRun start (cursorSub s.cfg.cursorW e start)) = 0 ∧ RunsGood s e es

/-- `rxor` is the exclusive OR of the bytes pushed since the packet start, and every published run is good. -/
structure ChecksumInv (s : State) : Prop where
  running : s.rxor = xorBytes (s.ringRun s.pstart (cursorSub s.cfg.cursorW s.wr s.pstart))
  published : RunsGood s s.rd s.handoff

/-! ### Composition of decode actions -/

/-- Run operations one after another; a fatal stops the list at the state it leaves (60_exceptions R340). -/
def runActions : List Instr → State → Result
  | [], s => .next s
  | i :: is, s => andThen (exec i s) fun t => if t.fatal then .next t else runActions is t

end Sys2Proof.Machine
end

