-- ==== Sys2Proof/Certificates/Slice0/Obligations.lean ====
section
/-! DEFINITION. The statements for the provers. Each docstring names the rules of spec/ the statement rests on. Where a
statement rests on a choice of the model, its docstring names the entry of notes/assumptions/. -/

open Sys2Proof Sys2Proof.Machine

/-! ### Encodings -/

/-- Every well-formed operation is read back from its code, with every operand at every value and whatever the parameters
(R92, R95, R98, R100 to R102, R113, R222 to R224, R250). -/
def Obligations.DecodeOfEncode : Prop :=
  ∀ (p : Config.Params) (i : Instr), paramsLegal p = true → wellFormed p i = true → decode p (encode p i) = .ok i

/-- Six codes written out from the spec, one of each kind and both kinds of packet: sample byte 0x88 (R160), entry 0x404E
(R149) at its Push place, entry 0x0491 (R149) at its Reset place, the raw packets of R252 and R266, and selector value 7
(R113). -/
def Obligations.WrittenCodesDecode : Prop :=
  decode defaultParams (.sample 0x88) = .ok (.sample 0x88) ∧
  decode defaultParams (.tte .push 0x404E) = .ok (.actPush 16) ∧
  decode defaultParams (.tte .reset 0x0491) = .ok .actReset ∧
  decode defaultParams (.packet [0x00, 0x00, 0x20, 0x01, 0x21]) =
    .ok (.rdiCtrl { orgPort := 0, orgId := 0, dstPort := 0, payload := [] }) ∧
  decode defaultParams (.packet [0x02, 0x00, 0x02, 0x0E, 0x00, 0x00, 0x01, 0x00, 0x11, 0x22, 0x33, 0x44, 0x4B]) =
    .ok (.setcondVib { orgPort := 0, orgId := 0, dstPort := 0, payload := [0x00000100, 0x11223344] }) ∧
  decode defaultParams (.sel 7) = .ok .selMcAck

/-- The matcher follows the fifteen rows of R252 to R266: a foreign masked Destination is `NOTOURS` (R269); a request that meets
row `k` is that row's request, or `BADPHASE` where its Phase is not allowed (R267); a request that meets no row is `UNREC`
(R268). No row matches a Command that is zero or negative as a signed byte (R103). The codes are parameters (R106, R108), and
the model accepts them exactly if no packet meets two rows, which is what R250 says of them (notes/assumptions/25). -/
def Obligations.MatcherFollowsRows : Prop :=
  ∀ (k : Fin 7) (c : Config.Codes),
    (codesLegal k c = true ↔
      ∀ (dst cmd : Byte) (payload : List Word) (i j : Nat) (r t : RequestRow), addrId k dst = dst → payload.length ≤ 255 →
        (requestRows c)[i]? = some r → (requestRows c)[j]? = some t → r.holds c dst cmd payload = true →
        t.holds c dst cmd payload = true → i = j) ∧
    ∀ (q : Req) (dst cmd : Byte), codesLegal k c = true → addrId k dst = dst →
      (dst ≠ c.addrController ∧ dst ≠ c.addrSub0 ∧ dst ≠ c.addrSub1 → matchRequest c q dst cmd = .notOurs q dst cmd) ∧
      (∀ (j : Nat) (r : RequestRow) (i : Instr), (requestRows c)[j]? = some r →
        [Instr.rdiCtrl q, .rdiMc q, .rdiVib q, .getcondCtrl q, .getcondVib q, .getmediaMc q, .getmediaLcd q, .getmediaVib q,
          .bwriteMc q, .bwriteLcd q, .breadMc q, .breadVib q, .bwriteVib q, .bcompleteMc q, .setcondVib q][j]? = some i →
        r.holds c dst cmd q.payload = true →
        0 < cmd.toInt ∧ matchRequest c q dst cmd = if r.phaseAllowed q.payload then i else .badPhase q dst cmd) ∧
      ((dst = c.addrController ∨ dst = c.addrSub0 ∨ dst = c.addrSub1) →
        (∀ r ∈ requestRows c, r.holds c dst cmd q.payload = false) → matchRequest c q dst cmd = .unrec q dst cmd)

/-- The registers the validator leaves (R228 to R231) carry the request that the decoder reads from the packet's bytes:
fetching from `RAW` and matching from the registers (R250) agree. -/
def Obligations.RegistersCarryTheRequest : Prop :=
  ∀ s t : State, s.validate = some t → decode s.cfg (.packet s.rawBytes) = .ok t.pendingRequest

/-! ### The decode actions -/

/-- `ACT.NEXT` loads `dstate` and changes nothing else (R162). -/
def Obligations.NextLoadsDecodeState : Prop :=
  ∀ (n : Nat) (s : State), s.fatal = false → n < s.cfg.numStates → exec (.actNext n) s = .next { s with dstate := n }

/-- `ACT.RESET` returns `wr` to the packet start, clears `acc` and `rxor`, and changes nothing else (R163). -/
def Obligations.ResetReturnsToPacketStart : Prop :=
  ∀ s : State, s.fatal = false → exec .actReset s = .next { s with wr := s.pstart, acc := 0, rxor := 0 }

/-- `ACT.OR` sets in `acc` the bits of the row's first byte and changes nothing else (R164). -/
def Obligations.OrSetsProvenBits : Prop :=
  ∀ (o : Nat) (s : State) (cur nxt : Byte), s.fatal = false → s.ortab[o]? = some (cur, nxt) →
    exec (.actOr o) s = .next { s with acc := s.acc ||| cur }

/-- `ACT.PUSH` where the ring is not lapped (R165): the byte stands at the ring index of `wr`, every other ring byte reads as
before, `rxor`, `acc` and `wr` change as the rule says, and nothing else changes. -/
def Obligations.PushStoresTheByte : Prop :=
  ∀ (o : Nat) (s : State) (cur nxt : Byte), s.fatal = false → s.ortab[o]? = some (cur, nxt) →
    Memory.wf s.ring → cursorSub s.cfg.cursorW s.wr s.rdSeen < s.cfg.ringSize →
    ∃ ring : Memory,
      exec (.actPush o) s =
        .next { s with
          ring := ring, rxor := s.rxor ^^^ s.acc, acc := nxt, wr := cursorAdd s.cfg.cursorW s.wr 1 } ∧
      Memory.wf ring ∧
      Memory.read ring (s.wr % s.cfg.ringSize) = s.acc ∧
      ∀ a : Nat, a ≠ s.wr % s.cfg.ringSize → Memory.read ring a = Memory.read s.ring a

/-- `ACT.END` with a good checksum and room in the handoff publishes `wr` and moves the packet start; with a bad checksum it
changes nothing, whatever the handoff holds (R166, R332). -/
def Obligations.EndPublishesGoodPackets : Prop :=
  ∀ s : State, s.fatal = false →
    (s.rxor = 0 → s.handoff.length < s.cfg.handoffDepth →
      exec .actEnd s =
        .next { s with handoff := s.handoff ++ [s.wr], pstart := alignUp s.cfg.cursorW s.wr s.cfg.startAlign }) ∧
    (s.rxor ≠ 0 → exec .actEnd s = .next s)

/-- Backpressure halts the block and changes nothing else: a Push that finds `wr - rd_seen >= RING_SIZE` raises
`Fatal(RING_OVERRUN)` (code 3) and the ring keeps every byte (R165, R194, R334); an End with a good checksum on a full handoff
raises `Fatal(HANDOFF_OVERFLOW)` (code 1) and the queue keeps its entries (R166, R197, R332). -/
def Obligations.BackpressureHalts : Prop :=
  ∀ s : State, s.fatal = false →
    (∀ (o : Nat) (cur nxt : Byte), s.ortab[o]? = some (cur, nxt) →
      s.cfg.ringSize ≤ cursorSub s.cfg.cursorW s.wr s.rdSeen →
      exec (.actPush o) s = .next { s with fatal := true, fatalCause := 3 }) ∧
    (s.rxor = 0 → s.handoff.length = s.cfg.handoffDepth →
      exec .actEnd s = .next { s with fatal := true, fatalCause := 1 })

/-- `ACT.ERROR` changes no state of the block; the optional output `err_pulse` is raised (R168, R36). That the
output is kept as a field is the model's choice (notes/assumptions/9). -/
def Obligations.ErrorOnlyRaisesItsOutput : Prop :=
  ∀ s : State, s.fatal = false → exec .actError s = .next { s with errPulse := true }

/-- A decoder step performs the actions its table entry selects in the order NEXT, RESET, OR, PUSH, END, ERROR, stops at a
fatal, and ends with the overrun check (R160, R161, R167). -/
def Obligations.SamplePerformsSelectedActions : Prop :=
  ∀ (b : Byte) (s : State) (e : Tte) (row : Byte × Byte), s.fatal = false → s.tableEntry b = some e → entryLegal s.cfg e = true →
    s.orRow e.oridx = some row →
    exec (.sample b) s =
      andThen (runActions e.actions s.beginDecoderStep) fun t =>
        .next (if t.fatal then t else if t.srcOverrun then { t with fatal := true, fatalCause := 2 } else t)

/-- With the tables the builder makes of an accepted graph, a decoder step is defined for every DecodeState and every byte
(R170; the reference graph has the DecodeStates 0..35). It goes on without a fatal where the handoff has room, the ring is not
lapped, the copy of the release cursor is exact and the sample source has lost nothing (with another graph, whose entries may
select Reset and Push together, also the ring from the packet start); otherwise the only failure is one of the three fatals
of the capture agent. It leaves everything of the dispatch agent alone. -/
def Obligations.SampleCompletesOnEveryByte : Prop :=
  ∀ (b : Byte) (s : State), s.fatal = false → BuiltTables s → s.dstate < s.cfg.numStates →
    (s.cfg.graph = refGraph → s.cfg.numStates = 36) ∧
    ∃ t : State, exec (.sample b) s = .next t ∧ t.dstate < s.cfg.numStates ∧
      (t.fatal = false ∨ t.fatalCause = 1 ∨ t.fatalCause = 2 ∨ t.fatalCause = 3) ∧
      (s.srcOverrun = false → s.handoff.length < s.cfg.handoffDepth → s.rdSeen = s.rdRelease →
        cursorSub s.cfg.cursorW s.wr s.rdSeen < s.cfg.ringSize →
        (s.cfg.graph = refGraph ∨ cursorSub s.cfg.cursorW s.pstart s.rdSeen < s.cfg.ringSize) →
        t.fatal = false ∧ t.fatalCause = s.fatalCause) ∧
      SameConstants s t ∧ SameDispatch s t ∧ SameSource s t

/-- A decoder step may move the copy of the release cursor to this turn's draw, but never backwards and never past
`rd_release` in cursor order, where `a <= b` means that `b` is less than half of `2 ^ CURSOR_W` ahead (R74); any other draw
leaves it (R26). That an unusable draw is ignored is the model's reading
(notes/assumptions/15). -/
def Obligations.ReleaseCopyStaysInRange : Prop :=
  ∀ (b : Byte) (s t : State), exec (.sample b) s = .next t →
    (t.rdSeen = s.rdSeen ∨
      (t.rdSeen = s.input.rdSeenDraw ∧ t.rdSeen < 2 ^ s.cfg.cursorW ∧
        2 * cursorSub s.cfg.cursorW t.rdSeen s.rdSeen < 2 ^ s.cfg.cursorW ∧
        2 * cursorSub s.cfg.cursorW s.rdRelease t.rdSeen < 2 ^ s.cfg.cursorW)) ∧
    (s.input.rdSeenDraw < 2 ^ s.cfg.cursorW →
      2 * cursorSub s.cfg.cursorW s.input.rdSeenDraw s.rdSeen < 2 ^ s.cfg.cursorW →
      2 * cursorSub s.cfg.cursorW s.rdRelease s.input.rdSeenDraw < 2 ^ s.cfg.cursorW →
      t.rdSeen = s.input.rdSeenDraw)

/-- A decoder step of the reference graph that raises no fatal equals four micro-steps, one for each pair, oldest first
(R169). -/
def Obligations.SampleEqualsFourMicroSteps : Prop :=
  ∀ (b : Byte) (s t : State), ReferenceTables s → s.dstate < 36 → exec (.sample b) s = .next t → t.fatal = false →
    t.dstate = (s.runPairs refGraph (samplePairs s.cfg.pairOrder b)).dstate ∧
    t.acc = (s.runPairs refGraph (samplePairs s.cfg.pairOrder b)).acc ∧
    t.rxor = (s.runPairs refGraph (samplePairs s.cfg.pairOrder b)).rxor ∧
    t.wr = (s.runPairs refGraph (samplePairs s.cfg.pairOrder b)).wr ∧
    t.pstart = (s.runPairs refGraph (samplePairs s.cfg.pairOrder b)).pstart ∧
    t.ring = (s.runPairs refGraph (samplePairs s.cfg.pairOrder b)).ring ∧
    t.handoff = (s.runPairs refGraph (samplePairs s.cfg.pairOrder b)).handoff

/-- Property P1 of R150: whatever is in `acc` and `rxor`, the frame of any bytes, begun in `IDLE` at any of the four places of
a sample byte (up to three idle pairs lead), is reconstructed byte by byte, with `rxor` the exclusive OR of the bytes, and
leaves the decoder in `IDLE`. With exclusive OR zero it is published once with its end offset; with another exclusive OR
nothing is published, and the packet start stays for the next Reset (R166, R193). The sample bytes are the whole ones: the End
needs no later transition (R173). Ring bytes outside the frame read as before. -/
def Obligations.FramedPacketIsPublished : Prop :=
  ∀ (data : List Byte) (lead : List Pair) (s : State),
    data ≠ [] → lead.length ≤ 3 → (∀ p ∈ lead, p ≠ 0b10) →
    paramsLegal s.cfg = true → ReferenceTables s → s.dstate = 0 → s.fatal = false →
    s.srcOverrun = false → s.rdSeen = s.rdRelease → (xorBytes data = 0 → s.handoff.length < s.cfg.handoffDepth) →
    Memory.wf s.ring → cursorSub s.cfg.cursorW s.pstart s.rdSeen + data.length ≤ s.cfg.ringSize →
    ∃ t : State, runSamples (packPairs s.cfg.pairOrder (lead ++ enc .bHigh data)).1 s = .next t ∧
      t.fatal = false ∧ t.dstate = 0 ∧ t.rxor = xorBytes data ∧
      t.wr = cursorAdd s.cfg.cursorW s.pstart data.length ∧
      (xorBytes data = 0 →
        t.handoff = s.handoff ++ [cursorAdd s.cfg.cursorW s.pstart data.length] ∧
        t.pstart = alignUp s.cfg.cursorW (cursorAdd s.cfg.cursorW s.pstart data.length) s.cfg.startAlign) ∧
      (xorBytes data ≠ 0 → t.handoff = s.handoff ∧ t.pstart = s.pstart) ∧
      t.ringRun s.pstart data.length = data ∧
      (∀ a : Nat, (∀ i : Nat, i < data.length → a ≠ s.ringIndex (cursorAdd s.cfg.cursorW s.pstart i)) →
        Memory.read t.ring a = Memory.read s.ring a) ∧
      SameConstants s t ∧ SameDispatch s t ∧ SameSource s t

/-- Property P2 of R150, first half, at every place of a sample byte: if one of the ten start pairs is replaced by another
value, the frame leaves no trace: no byte is pushed, nothing is published, no register of the block but the optional output
and the copy of the release cursor changes, and the decoder is back in `IDLE`. -/
def Obligations.DamagedStartLeavesNoTrace : Prop :=
  ∀ (data : List Byte) (lead : List Pair) (k : Nat) (v : Pair) (s : State),
    lead.length ≤ 3 → (∀ p ∈ lead, p ≠ 0b10) → (∃ p : Pair, (startPattern .bHigh)[k]? = some p ∧ v ≠ p) →
    ReferenceTables s → s.dstate = 0 → s.fatal = false → s.srcOverrun = false →
    ∃ t : State,
      runSamples
          (packPairs s.cfg.pairOrder
            (lead ++ (startPattern .bHigh).set k v ++ encBytes .bHigh true data ++ endPattern .bHigh)).1 s = .next t ∧
      t = { s with rdSeen := t.rdSeen, errPulse := t.errPulse }

/-- No byte is pushed and nothing is published outside a frame: a decoder step that begins in `IDLE` or `START1` to `START9`
leaves the ring, the handoff and `pstart` alone, and unless its entry carries Reset also `acc`, `rxor` and `wr` (R171). -/
def Obligations.NothingPushedOutsideFrames : Prop :=
  ∀ (b : Byte) (s t : State) (e : Tte), ReferenceTables s → s.dstate ≤ 9 → s.tableEntry b = some e →
    exec (.sample b) s = .next t →
    t.ring = s.ring ∧ t.handoff = s.handoff ∧ t.pstart = s.pstart ∧ t.dstate = e.next ∧
    (e.reset = false → t.wr = s.wr ∧ t.rxor = s.rxor ∧ t.acc = s.acc) ∧
    (e.reset = true → t.wr = s.pstart ∧ t.rxor = 0)

/-! ### The table builder -/

/-- The builder and what it refuses. It accepts the reference graph: all conditions of R143 and R146 hold, `TB.DEDUP` gives the
eighteen rows of R147, and four spot entries of R149 have their words; with the lines of a pair exchanged the graph behaves
alike. For all parameters the answers written down for the reference graph are those computed anew, a graph that fails a
condition of R143, R146 or R6 gives no tables but its reason, and a step refuses it by that name; a step refuses a `TABLE`
that lists an entry the builder never makes (R98), whatever entry it would look up. -/
def Obligations.ReferenceGraphIsAccepted : Prop :=
  graphError defaultParams = none ∧ refGraph.cells.length = 36 ∧ dedup .oldestHigh refGraph = refOrTable ∧
  packTte defaultParams (compileEntry .oldestHigh refGraph refOrTable 8 0xB4) = 0x008D ∧
  packTte defaultParams (compileEntry .oldestHigh refGraph refOrTable 32 0x1E) = 0x404E ∧
  packTte defaultParams (compileEntry .oldestHigh refGraph refOrTable 33 0x74) = 0x3940 ∧
  packTte defaultParams (compileEntry .oldestHigh refGraph refOrTable 33 0x7E) = 0x3A41 ∧
  (∀ (s : Nat) (v : Pair), edgeT (graphFor .aHigh) s (swapPair v) = edgeT refGraph s v) ∧
  (∀ p : Config.Params,
    builderRefuses p = graphError p ∧ orTable p = dedup p.pairOrder p.graph ∧
    (∀ f, flagsLegal p f = flagsOccur p.pairOrder p.graph f) ∧
    (∀ e, graphError p = some e → buildTables p = .error e) ∧
    (graphError p = none → ∃ b, buildTables p = .ok b)) ∧
  (∀ (s : State) (e : BuildError), paramsLegal s.cfg = true → graphError s.cfg = some e →
    step s = .refused (.graphRefused e)) ∧
  (∀ (s : State) (c : Nat × Nat), paramsLegal s.cfg = true → builderRefuses s.cfg = none → s.ortab = orTable s.cfg →
    c ∈ s.table → entryLegal s.cfg (unpackTte s.cfg c.2) = false → step s = .refused .reservedEntry)

/-- `TB.DEDUP` of any graph: row 0 is (0x00, 0x00), no pair stands twice, every walk's pair has a row, and every further row
is the pair of a walk (R147). -/
def Obligations.OrTableCoversEveryWalk : Prop :=
  ∀ (o : Config.PairOrder) (g : Config.Graph),
    (dedup o g)[0]? = some (0, 0) ∧ (dedup o g).Nodup ∧
    (∀ s b : Nat, s < g.cells.length → b < 256 → (compile o g s (BitVec.ofNat 8 b)).pair ∈ dedup o g) ∧
    (∀ p ∈ dedup o g, p = (0, 0) ∨
      ∃ s b : Nat, s < g.cells.length ∧ b < 256 ∧ p = (compile o g s (BitVec.ofNat 8 b)).pair)

/-- The tables built of any accepted graph hold, at state `s` and byte `b`, the word of `Compile(s, b)`, whose row number names
the walk's pair (R61, R95, R145); and that is the entry a decoder step looks up. -/
def Obligations.TableHoldsCompiledWalks : Prop :=
  ∀ (p : Config.Params) (tables : Tables) (s : Nat) (b : Byte) (w : Walk), buildTables p = .ok tables → s < p.numStates →
    w = compile p.pairOrder p.graph s b →
    ∃ e : Tte, (tables.table[s * 256 + b.toNat]?).map (unpackTte p) = some e ∧
      e.next = w.st ∧ e.push = w.push ∧ e.reset = w.reset ∧ e.endFlag = w.endFlag ∧ e.error = w.error ∧
      tables.ortab[e.oridx]? = some w.pair ∧
      ∀ u : State, u.cfg = p → BuiltTables u → u.dstate = s → u.tableEntry b = some e ∧ u.ortab = tables.ortab

/-! ### The checksum -/

/-- The byte form of `Cks`: its four bytes are running exclusive ORs of the bytes of the words' exclusive OR, and the top byte
is the exclusive OR of every byte of every word (R235, R233). -/
def Obligations.ChecksumByteForm : Prop :=
  ∀ ws : List Word,
    (cks ws).extractLsb' 24 8 = xorBytes (wordsBytes ws) ∧
    ∀ b3 b2 b1 b0 : Byte, xorWords ws = be32 b3 b2 b1 b0 →
      cks ws = be32 (b3 ^^^ b2 ^^^ b1 ^^^ b0) (b2 ^^^ b1 ^^^ b0) (b1 ^^^ b0) b0

/-- `Cks` is linear over exclusive OR, element by element and over concatenation (R236). -/
def Obligations.ChecksumIsLinear : Prop :=
  (∀ u v : List Word, u.length = v.length → cks (List.zipWith (fun x y => x ^^^ y) u v) = cks u ^^^ cks v) ∧
  (∀ u v : List Word, cks (u ++ v) = cks u ^^^ cks v)

/-- The port bits of a header word and the checksum: patching `p` into a header with zero port fields changes the checksum
only in bits [15:8], by `p` at its place there (`p << 14` at the default place), so its bits [31:16], which hold the byte that
is sent, are the same for every port (R237). -/
def Obligations.PortsCancelInChecksum : Prop :=
  ∀ (k : Fin 7) (h : Word) (p : BitVec 2) (ws : List Word), h &&& headerPorts k 3 = 0 →
    cks (patchHeader k h p :: ws) = cks (h :: ws) ^^^ (p.setWidth 32 <<< (8 + k.val)) ∧
    (cks (patchHeader k h p :: ws)).extractLsb' 16 16 = (cks (h :: ws)).extractLsb' 16 16

/-- `MUX.PATCHPORT` puts the port into both address fields and leaves the masked addresses, the count and the command; at the
default place it is the masking and shifting of R303 (R303, R117). -/
def Obligations.PortPatchKeepsOtherFields : Prop :=
  ∀ (k : Fin 7) (h : Word) (p : BitVec 2),
    addrPort k (hdrOrigin (patchHeader k h p)) = p ∧ addrPort k (hdrDest (patchHeader k h p)) = p ∧
    addrId k (hdrOrigin (patchHeader k h p)) = addrId k (hdrOrigin h) ∧
    addrId k (hdrDest (patchHeader k h p)) = addrId k (hdrDest h) ∧
    hdrCount (patchHeader k h p) = hdrCount h ∧ hdrCommand (patchHeader k h p) = hdrCommand h ∧
    patchHeader 6 h p = (h &&& 0xFF3F3FFF) ||| (p.setWidth 32 <<< 22) ||| (p.setWidth 32 <<< 14)

/-- The two ways to a dynamic checksum agree: on a well-formed image with a dynamic window, recomputing over header and
payload gives the template's checksum word changed by the checksum of the dynamic words (R301, R236). -/
def Obligations.DynamicChecksumByDelta : Prop :=
  ∀ (cfg : Config.Params) (x : BitVec 4) (w0 h f c : Word) (zeros d : List Word) (len : Nat),
    dynLen cfg x = some len → zeros.length = len → d.length = len →
    imageWellFormed cfg x (w0 :: h :: f :: zeros ++ [c]) = true →
    cks (h :: f :: d) = c ^^^ cks d

/-! ### Copy-out and validator -/

/-- `RING.COPYOUT` (R202, R203): the entry leaves the queue and both cursors move to the aligned end offset; a run of at most
1025 bytes is in `RAW` byte by byte in cursor order, across the top of the store, and `RAW` beyond it reads as before; a
longer run is only released. Nothing else changes. -/
def Obligations.CopyOutMovesTheRun : Prop :=
  ∀ (s : State) (endOff : Nat) (rest : List Nat), Memory.wf s.raw →
    (cursorSub s.cfg.cursorW endOff s.rd ≤ 1025 →
      ∃ raw : Memory,
        s.copyOut endOff rest =
          { s with
            handoff := rest, raw := raw, rawlen := BitVec.ofNat 11 (cursorSub s.cfg.cursorW endOff s.rd), oversize := false
            rd := alignUp s.cfg.cursorW endOff s.cfg.startAlign, rdRelease := alignUp s.cfg.cursorW endOff s.cfg.startAlign } ∧
        (s.copyOut endOff rest).rawBytes = s.ringRun s.rd (cursorSub s.cfg.cursorW endOff s.rd) ∧
        (s.copyOut endOff rest).rawlen.toNat = cursorSub s.cfg.cursorW endOff s.rd ∧
        Memory.wf raw ∧
        ∀ a : Nat, cursorSub s.cfg.cursorW endOff s.rd ≤ a → Memory.read raw a = Memory.read s.raw a) ∧
    (1025 < cursorSub s.cfg.cursorW endOff s.rd →
      s.copyOut endOff rest =
        { s with
          handoff := rest, rawlen := 0, oversize := true
          rd := alignUp s.cfg.cursorW endOff s.cfg.startAlign, rdRelease := alignUp s.cfg.cursorW endOff s.cfg.startAlign })

/-- `VAL` (R220): an oversize run, a length not 1 modulo 4, a length of 1 and a length that does not agree with the header's
count are dropped; every other packet is parsed: the four header fields, the active port, the masked addresses and the
payload words, most significant byte first; payload words beyond it keep their values, and nothing else changes. The port is
bits [7:6] of an address byte and the mask 0x3F at the default place, `portShift = 6`. -/
def Obligations.ValidatorParsesOrDrops : Prop :=
  ~~~(3 <<< 6 : Byte) = 0x3F ∧
  ∀ (s : State) (len n : Nat) (h : Word), len = s.rawlen.toNat →
    h = be32 (Memory.read s.raw 0) (Memory.read s.raw 1) (Memory.read s.raw 2) (Memory.read s.raw 3) →
    n = (h.extractLsb' 24 8).toNat → s.pw.length = 255 →
    (s.oversize = true ∨ len % 4 ≠ 1 ∨ len = 1 ∨ len - 1 ≠ (n + 1) * 4 → s.validate = none) ∧
    (s.oversize = false → len % 4 = 1 → len ≠ 1 → len - 1 = (n + 1) * 4 →
      ∃ pw : List Word,
        s.validate = some
          { s with
            hnw := h.extractLsb' 24 8
            horg := h.extractLsb' 16 8 &&& ~~~((3 : Byte) <<< s.cfg.portShift.val)
            hdst := h.extractLsb' 8 8 &&& ~~~((3 : Byte) <<< s.cfg.portShift.val)
            hcmd := h.extractLsb' 0 8, activePort := h.extractLsb' (16 + s.cfg.portShift.val) 2, pw := pw } ∧
        pw.length = 255 ∧
        (∀ i : Nat, i < n →
          pw[i]? = some (be32 (Memory.read s.raw (4 * i + 4)) (Memory.read s.raw (4 * i + 5))
            (Memory.read s.raw (4 * i + 6)) (Memory.read s.raw (4 * i + 7)))) ∧
        ∀ i : Nat, n ≤ i → pw[i]? = s.pw[i]?)

/-- A dropped packet (R336: bad length, not ours, unrecognized, bad Phase) makes no request on the environment and leaves the
selection and the outstanding read alone; the packet is consumed and its ring bytes are released; only a packet that passed
the length tests sets the active port (R230, R238, R345). -/
def Obligations.DroppedPacketLeavesSelection : Prop :=
  ∀ (s : State) (endOff : Nat) (rest : List Nat), s.fatal = false →
    ((s.copyOut endOff rest).validate = none →
      packetPart s endOff rest = .next (s.copyOut endOff rest) ∧
      (s.copyOut endOff rest).activePort = s.activePort) ∧
    (∀ (t : State) (q : Req) (dst cmd : Byte), (s.copyOut endOff rest).validate = some t →
      (t.pendingRequest = .notOurs q dst cmd ∨ t.pendingRequest = .unrec q dst cmd ∨
        t.pendingRequest = .badPhase q dst cmd) →
      packetPart s endOff rest = .next t ∧
      t.sel = s.sel ∧ t.readOutstanding = s.readOutstanding ∧ t.readAddr = s.readAddr ∧ t.readUnit = s.readUnit ∧
      t.envLog = s.envLog ∧ t.handoff = rest ∧ t.rd = alignUp s.cfg.cursorW endOff s.cfg.startAlign ∧ t.rdRelease = t.rd ∧
      SameCapture s t)

/-- Every packet the dispatch agent copies out has byte-XOR zero, so the validator need not test it again (R226). -/
def Obligations.CopiedPacketHasZeroXor : Prop :=
  ∀ (s : State) (endOff : Nat) (rest : List Nat), CursorInv s → ChecksumInv s → Memory.wf s.raw →
    s.handoff = endOff :: rest → cursorSub s.cfg.cursorW endOff s.rd ≤ 1025 →
    xorBytes (s.copyOut endOff rest).rawBytes = 0

/-! ### Requests -/

/-- The five requests that only select: device information of each unit with any payload (R252, R253, R254), vibration
condition (R256) and vibration media information (R259), neither of which compares a function code. The codes are parameters
(R106, R108); in this statement and the five after it the first clause says their defaults, and a clause speaks of a masked
Destination that routes to its table (R250) and of a command that is a real one (R103). -/
def Obligations.InformationRequestsSelect : Prop :=
  ∀ (q : Req) (s : State) (c : Config.Codes) (dst : Byte), s.fatal = false → c = s.cfg.codes →
    codesLegal s.cfg.portShift c = true → addrId s.cfg.portShift dst = dst →
    (c = defaultCodes → c.addrController = 0x20 ∧ c.addrSub0 = 0x01 ∧ c.addrSub1 = 0x02 ∧ c.cmdRequestDeviceInfo = 1 ∧
      c.cmdGetCondition = 9 ∧ c.cmdGetMediaInfo = 10 ∧ routeTo c 0x20 = some .ctrl ∧ routeTo c 0x01 = some .mc ∧
      routeTo c 0x02 = some .vib) ∧
    (0 < c.cmdRequestDeviceInfo.toInt →
      (routeTo c dst = some .ctrl → matchRequest c q dst c.cmdRequestDeviceInfo = .rdiCtrl q) ∧
      (routeTo c dst = some .mc → matchRequest c q dst c.cmdRequestDeviceInfo = .rdiMc q) ∧
      (routeTo c dst = some .vib → matchRequest c q dst c.cmdRequestDeviceInfo = .rdiVib q)) ∧
    (routeTo c dst = some .vib →
      (0 < c.cmdGetCondition.toInt → matchRequest c q dst c.cmdGetCondition = .getcondVib q) ∧
      (0 < c.cmdGetMediaInfo.toInt → matchRequest c q dst c.cmdGetMediaInfo = .getmediaVib q)) ∧
    exec (.rdiCtrl q) s = .next { s with sel := 1 } ∧ exec (.rdiMc q) s = .next { s with sel := 3 } ∧
    exec (.rdiVib q) s = .next { s with sel := 8 } ∧ exec (.getcondVib q) s = .next { s with sel := 10 } ∧
    exec (.getmediaVib q) s = .next { s with sel := 9 }

/-- The three requests with a function code (R255, R257, R258): the right code selects the response, any other code or none
is unrecognized. -/
def Obligations.FunctionCodeSelects : Prop :=
  ∀ (q : Req) (s : State) (c : Config.Codes) (dst : Byte), s.fatal = false → c = s.cfg.codes →
    codesLegal s.cfg.portShift c = true → addrId s.cfg.portShift dst = dst →
    (c = defaultCodes → c.addrController = 0x20 ∧ c.addrSub0 = 0x01 ∧ c.cmdGetCondition = 9 ∧ c.cmdGetMediaInfo = 10 ∧
      c.funcController = 0x00000001 ∧ c.funcMemoryCard = 0x00000002 ∧ c.funcLcd = 0x00000004) ∧
    (q.payload[0]? = some c.funcController →
      (routeTo c dst = some .ctrl → 0 < c.cmdGetCondition.toInt →
        matchRequest c q dst c.cmdGetCondition = .getcondCtrl q) ∧
      exec (.getcondCtrl q) s = .next { s with sel := 2 }) ∧
    (q.payload[0]? ≠ some c.funcController → routeTo c dst = some .ctrl → 0 < c.cmdGetCondition.toInt →
      matchRequest c q dst c.cmdGetCondition = .unrec q dst c.cmdGetCondition) ∧
    (q.payload[0]? = some c.funcMemoryCard →
      (routeTo c dst = some .mc → 0 < c.cmdGetMediaInfo.toInt →
        matchRequest c q dst c.cmdGetMediaInfo = .getmediaMc q) ∧
      exec (.getmediaMc q) s = .next { s with sel := 4 }) ∧
    (q.payload[0]? = some c.funcLcd →
      (routeTo c dst = some .mc → 0 < c.cmdGetMediaInfo.toInt →
        matchRequest c q dst c.cmdGetMediaInfo = .getmediaLcd q) ∧
      exec (.getmediaLcd q) s = .next { s with sel := 5 }) ∧
    (q.payload[0]? ≠ some c.funcMemoryCard → q.payload[0]? ≠ some c.funcLcd → routeTo c dst = some .mc →
      0 < c.cmdGetMediaInfo.toInt → matchRequest c q dst c.cmdGetMediaInfo = .unrec q dst c.cmdGetMediaInfo)

/-- `BWRITE.MC` (R260): 32 words of one phase go to the storage with the address, further words are ignored, the memory card's
acknowledgement is selected; a Phase above 3 is `BADPHASE`, fewer than 34 words are `UNREC`. -/
def Obligations.CardWriteForwardsOnePhase : Prop :=
  ∀ (q : Req) (a : Word) (data extra : List Word) (s : State) (c : Config.Codes) (dst : Byte), s.fatal = false → c = s.cfg.codes →
    codesLegal s.cfg.portShift c = true → addrId s.cfg.portShift dst = dst →
    data.length = 32 → q.payload = c.funcMemoryCard :: a :: data ++ extra →
    (c = defaultCodes → c.addrSub0 = 0x01 ∧ c.cmdBlockWrite = 12 ∧ c.funcMemoryCard = 0x00000002) ∧
    ((a.extractLsb' 16 8).toNat ≤ 3 →
      (routeTo c dst = some .mc → 0 < c.cmdBlockWrite.toInt → matchRequest c q dst c.cmdBlockWrite = .bwriteMc q) ∧
      exec (.bwriteMc q) s = .next { s with envLog := s.envLog ++ [.blkWrite a data], sel := 7 }) ∧
    (routeTo c dst = some .mc → 0 < c.cmdBlockWrite.toInt →
      (3 < (a.extractLsb' 16 8).toNat → matchRequest c q dst c.cmdBlockWrite = .badPhase q dst c.cmdBlockWrite) ∧
      (∀ r : Req, r.payload[0]? = some c.funcMemoryCard → r.payload.length < 34 →
        matchRequest c r dst c.cmdBlockWrite = .unrec r dst c.cmdBlockWrite))

/-- `BWRITE.LCD` (R261): every word after the address goes to the LCD, without a Phase test, and the memory card's
acknowledgement is selected; fewer than 3 words, or a function code of neither kind, are `UNREC`. -/
def Obligations.LcdWriteForwardsAllWords : Prop :=
  ∀ (q : Req) (s : State) (c : Config.Codes) (dst : Byte), s.fatal = false → c = s.cfg.codes →
    codesLegal s.cfg.portShift c = true → addrId s.cfg.portShift dst = dst →
    (c = defaultCodes → c.addrSub0 = 0x01 ∧ c.cmdBlockWrite = 12 ∧ c.funcLcd = 0x00000004) ∧
    (∀ (a d : Word) (data : List Word), q.payload = c.funcLcd :: a :: d :: data →
      (routeTo c dst = some .mc → 0 < c.cmdBlockWrite.toInt → matchRequest c q dst c.cmdBlockWrite = .bwriteLcd q) ∧
      exec (.bwriteLcd q) s = .next { s with envLog := s.envLog ++ [.lcdWrite a (d :: data)], sel := 7 }) ∧
    (routeTo c dst = some .mc → 0 < c.cmdBlockWrite.toInt →
      (q.payload[0]? = some c.funcLcd → q.payload.length < 3 →
        matchRequest c q dst c.cmdBlockWrite = .unrec q dst c.cmdBlockWrite) ∧
      (q.payload[0]? ≠ some c.funcMemoryCard → q.payload[0]? ≠ some c.funcLcd →
        matchRequest c q dst c.cmdBlockWrite = .unrec q dst c.cmdBlockWrite))

/-- `BREAD.MC` and `BREAD.VIB` (R262, R263) with Phase 0 and no read outstanding begin the single block read: the address
word, the unit and the marker are recorded and the data response is selected; another Phase is `BADPHASE`, fewer than two
words are `UNREC`. -/
def Obligations.BlockReadBegins : Prop :=
  ∀ (q : Req) (s : State) (c : Config.Codes) (dst : Byte), s.fatal = false → c = s.cfg.codes →
    codesLegal s.cfg.portShift c = true → addrId s.cfg.portShift dst = dst →
    (c = defaultCodes → c.addrSub0 = 0x01 ∧ c.addrSub1 = 0x02 ∧ c.cmdBlockRead = 11) ∧
    (0 < c.cmdBlockRead.toInt →
      (∀ (f a : Word) (extra : List Word), q.payload = f :: a :: extra →
        (a.extractLsb' 16 8 = 0 →
          (routeTo c dst = some .mc → matchRequest c q dst c.cmdBlockRead = .breadMc q) ∧
          (routeTo c dst = some .vib → matchRequest c q dst c.cmdBlockRead = .breadVib q)) ∧
        (a.extractLsb' 16 8 ≠ 0 → routeTo c dst = some .mc ∨ routeTo c dst = some .vib →
          matchRequest c q dst c.cmdBlockRead = .badPhase q dst c.cmdBlockRead)) ∧
      (q.payload.length < 2 → routeTo c dst = some .mc ∨ routeTo c dst = some .vib →
        matchRequest c q dst c.cmdBlockRead = .unrec q dst c.cmdBlockRead)) ∧
    (∀ (f a : Word) (extra : List Word), q.payload = f :: a :: extra → a.extractLsb' 16 8 = 0 →
      s.readOutstanding = false →
      exec (.breadMc q) s =
        .next { s with readOutstanding := true, readAddr := a, readUnit := .memoryCard, sel := 6 } ∧
      exec (.breadVib q) s =
        .next { s with readOutstanding := true, readAddr := a, readUnit := .vibrationPack, sel := 11 })

/-- A block read with Phase 0 while one is outstanding raises `Fatal(READ_OUTSTANDING)` (code 4), whichever unit has it;
selection, address and unit stay (R262, R263, R335). -/
def Obligations.SecondBlockReadHalts : Prop :=
  ∀ (q : Req) (s : State) (f a : Word) (extra : List Word), s.fatal = false → s.readOutstanding = true →
    q.payload = f :: a :: extra → a.extractLsb' 16 8 = 0 →
    exec (.breadMc q) s = .next { s with fatal := true, fatalCause := 4 } ∧
    exec (.breadVib q) s = .next { s with fatal := true, fatalCause := 4 }

/-- `BWRITE.VIB`, `BCOMPLETE.MC` and `SETCOND.VIB` (R264, R265, R266) hand their words to the environment and select the
acknowledgement of their unit; a Phase the command does not allow is `BADPHASE`, too few words are `UNREC`. -/
def Obligations.UnitWritesForwardTheirWords : Prop :=
  ∀ (q : Req) (s : State) (c : Config.Codes) (dst : Byte), s.fatal = false → c = s.cfg.codes →
    codesLegal s.cfg.portShift c = true → addrId s.cfg.portShift dst = dst →
    (c = defaultCodes → c.addrSub0 = 0x01 ∧ c.addrSub1 = 0x02 ∧ c.cmdBlockWrite = 12 ∧ c.cmdBlockCompleteWrite = 13 ∧
      c.cmdSetCondition = 14) ∧
    (∀ (f a d : Word) (data : List Word), q.payload = f :: a :: d :: data → (a.extractLsb' 16 8).toNat ≤ 3 →
      exec (.bwriteVib q) s = .next { s with envLog := s.envLog ++ [.astWrite a (d :: data)], sel := 12 }) ∧
    (∀ (f a : Word) (extra : List Word), q.payload = f :: a :: extra →
      (a.extractLsb' 16 8 = 4 →
        exec (.bcompleteMc q) s = .next { s with envLog := s.envLog ++ [.blkComplete a], sel := 7 }) ∧
      exec (.setcondVib q) s = .next { s with envLog := s.envLog ++ [.vibSet a], sel := 12 }) ∧
    (routeTo c dst = some .vib → 0 < c.cmdBlockWrite.toInt →
      (∀ (f a d : Word) (data : List Word), q.payload = f :: a :: d :: data →
        matchRequest c q dst c.cmdBlockWrite =
          if (a.extractLsb' 16 8).toNat ≤ 3 then .bwriteVib q else .badPhase q dst c.cmdBlockWrite) ∧
      (q.payload.length < 3 → matchRequest c q dst c.cmdBlockWrite = .unrec q dst c.cmdBlockWrite)) ∧
    (routeTo c dst = some .mc → 0 < c.cmdBlockCompleteWrite.toInt →
      (∀ (f a : Word) (extra : List Word), q.payload = f :: a :: extra →
        matchRequest c q dst c.cmdBlockCompleteWrite =
          if a.extractLsb' 16 8 = 4 then .bcompleteMc q else .badPhase q dst c.cmdBlockCompleteWrite) ∧
      (q.payload.length < 2 →
        matchRequest c q dst c.cmdBlockCompleteWrite = .unrec q dst c.cmdBlockCompleteWrite)) ∧
    (routeTo c dst = some .vib → 0 < c.cmdSetCondition.toInt →
      (2 ≤ q.payload.length → matchRequest c q dst c.cmdSetCondition = .setcondVib q) ∧
      (q.payload.length < 2 → matchRequest c q dst c.cmdSetCondition = .unrec q dst c.cmdSetCondition))

/-- The three non-matches change nothing (R267, R268, R269); a masked Destination other than the three addresses (defaults 0x20,
0x01, 0x02) is not ours, and a Command that is zero or negative is recognized by no table (R103). -/
def Obligations.NonMatchesChangeNothing : Prop :=
  ∀ (q : Req) (dst cmd : Byte) (s : State) (c : Config.Codes), s.fatal = false → c = s.cfg.codes →
    (dst ≠ c.addrController → dst ≠ c.addrSub0 → dst ≠ c.addrSub1 → matchRequest c q dst cmd = .notOurs q dst cmd) ∧
    (∀ table : CommandTable, routeTo c dst = some table → cmd.toInt ≤ 0 → matchRequest c q dst cmd = .unrec q dst cmd) ∧
    exec (.notOurs q dst cmd) s = .next s ∧ exec (.unrec q dst cmd) s = .next s ∧ exec (.badPhase q dst cmd) s = .next s

/-! ### Responses -/

/-- `SEL_NOTHING` (R311): nothing is sent, the busy flag is not read, nothing changes. -/
def Obligations.NothingSelectedSendsNothing : Prop := ∀ s : State, s.fatal = false → exec .selNothing s = .next s

/-- The eight static responses (R312, R314 to R316, R318 to R320, R323) with a free transmitter: the image goes out with the
active port in its header and nothing else changed, the selection is cleared, and nothing else changes. -/
def Obligations.StaticResponsesSendTheirImage : Prop :=
  ∀ (s : State) (i : Instr) (k : Nat) (w0 h : Word) (rest : List Word),
    (i, k) ∈ [(Instr.selCtrlDevinfo, 1), (.selMcDevinfo, 3), (.selMcMediainfo, 4), (.selLcdMediainfo, 5), (.selMcAck, 7),
      (.selVibDevinfo, 8), (.selVibMediainfo, 9), (.selVibAck, 12)] →
    s.fatal = false → s.input.txBusy = false → s.tpl[k - 1]? = some (w0 :: h :: rest) → 1 ≤ rest.length →
    rest.length ≤ 256 →
    ∃ out : List Word,
      out = w0 :: patchHeader s.cfg.portShift h s.activePort :: rest ∧
      exec i s = .next { s with out := out, envLog := s.envLog ++ [.txBusy, .txStart out], sel := 0 }

/-- The two sampled responses (R313, R321) with a free transmitter: one request for the words now, the words after the
function code, the recomputed checksum word (before the port patch), the port patch, and the selection cleared. The request
log is the model's own field (notes/assumptions/18). -/
def Obligations.SampledResponsesSendFreshWords : Prop :=
  ∀ (s : State) (w0 h f : Word) (rest : List Word), s.fatal = false → s.input.txBusy = false →
    (s.tpl[1]? = some (w0 :: h :: f :: rest) → rest.length = s.cfg.ctrlDynWords + 1 →
      ∃ out : List Word,
        out = w0 :: patchHeader s.cfg.portShift h s.activePort :: f ::
          (s.replyWords s.cfg.ctrlDynWords ++ [cks (h :: f :: s.replyWords s.cfg.ctrlDynWords)]) ∧
        exec .selCtrlStatus s =
          .next { s with out := out, envLog := s.envLog ++ [.txBusy, .ctrlSample, .txStart out], sel := 0 }) ∧
    (s.tpl[9]? = some (w0 :: h :: f :: rest) → rest.length = s.cfg.vibcondDynWords + 1 →
      ∃ out : List Word,
        out = w0 :: patchHeader s.cfg.portShift h s.activePort :: f ::
          (s.replyWords s.cfg.vibcondDynWords ++ [cks (h :: f :: s.replyWords s.cfg.vibcondDynWords)]) ∧
        exec .selVibCondition s =
          .next { s with out := out, envLog := s.envLog ++ [.txBusy, .vibCondition, .txStart out], sel := 0 })

/-- The two block-data responses (R317, R322) with a free transmitter: the read address is echoed whole, the data words of
one request follow, the checksum word is recomputed, the port patched, and on acceptance the read is no longer outstanding
and the selection is cleared. A well-formed memory-card image has count word 2099. The request log is the model's own field
(notes/assumptions/18). -/
def Obligations.BlockResponsesEchoAddress : Prop :=
  ∀ (s : State) (w0 h f : Word) (rest : List Word), s.fatal = false → s.input.txBusy = false →
    (s.tpl[5]? = some (w0 :: h :: f :: rest) → rest.length = 130 →
      (imageWellFormed s.cfg 6 (w0 :: h :: f :: rest) = true → w0 = 2099) ∧
      ∃ out : List Word,
        out = w0 :: patchHeader s.cfg.portShift h s.activePort :: f :: s.readAddr ::
          (s.replyWords 128 ++ [cks (h :: f :: s.readAddr :: s.replyWords 128)]) ∧
        exec .selMcBlockdata s =
          .next { s with
            out := out, envLog := s.envLog ++ [.txBusy, .blkReadData s.readAddr, .txStart out]
            readOutstanding := false, sel := 0 }) ∧
    (s.tpl[10]? = some (w0 :: h :: f :: rest) → rest.length = s.cfg.astWords + 2 →
      ∃ out : List Word,
        out = w0 :: patchHeader s.cfg.portShift h s.activePort :: f :: s.readAddr ::
          (s.replyWords s.cfg.astWords ++ [cks (h :: f :: s.readAddr :: s.replyWords s.cfg.astWords)]) ∧
        exec .selVibAstdata s =
          .next { s with
            out := out, envLog := s.envLog ++ [.txBusy, .astReadData s.readAddr, .txStart out]
            readOutstanding := false, sel := 0 })

/-- A busy transmitter leaves every selection pending: the flag is read, nothing is requested, nothing changes (R305). The
request log is the model's own field (notes/assumptions/18). -/
def Obligations.BusyTransmitterKeepsSelection : Prop :=
  ∀ (s : State) (x : BitVec 4) (i : Instr), s.fatal = false → s.input.txBusy = true → x ≠ 0 → decodeSel s.cfg x = some i →
    exec i s = .next { s with envLog := s.envLog ++ [.txBusy] }

/-- Every response sent from well-formed images is a valid packet on the wire: its bytes have exclusive OR zero and pass the
length tests, its words are the image's without the count word and the checksum word, and its header carries the active port
in both address fields (R292, R304, R383). -/
def Obligations.SentResponseIsValidPacket : Prop :=
  ∀ (s : State) (x : BitVec 4) (i : Instr), s.fatal = false → s.input.txBusy = false →
    catalogWellFormed s.cfg s.tpl = true → x ≠ 0 → decodeSel s.cfg x = some i →
    ∃ (t : State) (w0 h c : Word) (payload : List Word),
      exec i s = .next t ∧ t.sel = 0 ∧ t.envLog.getLast? = some (.txStart t.out) ∧
      t.out = w0 :: h :: payload ++ [c] ∧ w0 = BitVec.ofNat 32 (16 * payload.length + 19) ∧
      xorBytes (wireBytes t.out) = 0 ∧ packetWords (wireBytes t.out) = some (h :: payload) ∧
      addrPort s.cfg.portShift (hdrOrigin h) = s.activePort ∧ addrPort s.cfg.portShift (hdrDest h) = s.activePort

/-! ### Steps -/

/-- A capture turn with four transitions at hand runs the sample byte they make: the step is `exec` of the operation decoded
from it, on the state without the four, and then the next input is due (R160, R92). Turns and their inputs are the model's
form (notes/assumptions/2 and 3). -/
def Obligations.StepRunsSampledByte : Prop :=
  ∀ (s : State) (p0 p1 p2 p3 : Pair) (rest : List Pair) (i : Instr), s.inadmissible = none → s.fatal = false →
    s.input.rst = false → s.input.agent = .capture → s.srcPairs ++ s.input.arrivals = p0 :: p1 :: p2 :: p3 :: rest →
    decode s.cfg (.sample (packSample s.cfg.pairOrder p0 p1 p2 p3)) = .ok i →
    step s = andThen (exec i { s.intake with srcPairs := rest }) fun t => .next t.advance

/-- With the templates built, a dispatch turn that finds a packet runs the request its bytes decode to: the step is the copy-out, the validator's
parse, `exec` of the decoded request, then unless it raised a fatal `exec` of the operation of the pending selector, the idle
output 0, and then the next input is due (R310, R250, R305). A packet that the validator drops runs no request, and the turn
goes on with the pending selector in the same way (R336, R345). Turns, their inputs and the kept output are the model's form
(notes/assumptions/2, 3 and 9). -/
def Obligations.StepRunsReceivedRequest : Prop :=
  ∀ (s c : State) (endOff : Nat) (rest : List Nat), s.inadmissible = none → s.fatal = false →
    s.input.rst = false → s.input.agent = .dispatch → catalogWellFormed s.cfg s.tpl = true →
    s.handoff = endOff :: rest →
    s.intake.copyOut endOff rest = c →
    (∀ (t : State) (i : Instr), c.validate = some t → decode s.cfg (.packet c.rawBytes) = .ok i →
      step s =
        andThen (exec i t) fun u =>
          if u.fatal then .next u.advance
          else
            match decodeSel u.cfg u.sel with
            | none => .refused .reservedSelector
            | some j =>
              andThen (exec j u) fun v =>
                .next { v with idleOpportunity := false, script := v.script.tail, tick := v.tick + 1 }) ∧
    (c.validate = none →
      ∃ j : Instr, decode s.cfg (.sel s.sel) = .ok j ∧
        step s =
          andThen (exec j c) fun v =>
            .next { v with idleOpportunity := false, script := v.script.tail, tick := v.tick + 1 })

/-- With the templates built, a dispatch turn that finds the handoff empty runs the operation of the pending selector and raises
the idle output (R310, R305, R37). Before every image satisfies R293 the dispatch agent has no enabled step, whatever waits in
the handoff or is selected: the turn only takes in what the sample source observed (R310, R374). Turns, their inputs and the
kept output are the model's form, and so is that a turn without an enabled step passes (notes/assumptions/2, 3, 4 and 9). -/
def Obligations.StepServesSelector : Prop :=
  ∀ s : State, s.inadmissible = none → s.fatal = false → s.input.rst = false → s.input.agent = .dispatch →
    (∀ i : Instr, catalogWellFormed s.cfg s.tpl = true → s.handoff = [] → decode s.cfg (.sel s.sel) = .ok i →
      step s =
        andThen (exec i s.intake) fun t =>
          .next { t with idleOpportunity := true, script := t.script.tail, tick := t.tick + 1 }) ∧
    (catalogWellFormed s.cfg s.tpl = false →
      step s =
        .next { s with
          srcPairs := s.srcPairs ++ s.input.arrivals, srcOverrun := s.srcOverrun || s.input.lost
          script := s.script.tail, tick := s.tick + 1 })

/-- A capture turn with fewer than four transitions at hand only keeps them (R40; 93, U18). That such a turn passes is the
model's form (notes/assumptions/4 and 16). -/
def Obligations.CaptureWaitsForFourPairs : Prop :=
  ∀ s : State, s.inadmissible = none → s.fatal = false → s.input.rst = false → s.input.agent = .capture →
    (s.srcPairs ++ s.input.arrivals).length < 4 →
    step s =
      .next { s with
        srcPairs := s.srcPairs ++ s.input.arrivals, srcOverrun := s.srcOverrun || s.input.lost
        script := s.script.tail, tick := s.tick + 1 }

/-- After a fatal no agent steps: whatever the input but reset, a turn keeps every register and memory of the block and makes
no request; only the environment's transitions come in (R340, R342). That the turn passes, and that a meaning
asked for there answers a fault, is the model's form (notes/assumptions/4). -/
def Obligations.HaltedBlockIsFrozen : Prop :=
  ∀ s : State, s.fatal = true →
    (s.inadmissible = none → s.input.rst = false →
      step s =
        .next { s with
          srcPairs := s.srcPairs ++ s.input.arrivals, srcOverrun := s.srcOverrun || s.input.lost
          script := s.script.tail, tick := s.tick + 1 }) ∧
    ∀ i : Instr, exec i s = .fault (.halted s.fatalCause)

/-- `rst` takes every register to its value of R48, also out of a fatal halt, and empties the handoff; the constant memories
stay, and so does what lies behind the environment, unless it is brought to a clean state with the reset (R370, R372, R375).
That reset is a turn of its own is the model's form (notes/assumptions/5 and 16). -/
def Obligations.RstRestoresRegisters : Prop :=
  ∀ s : State, s.inadmissible = none → s.input.rst = true →
    ∃ t : State, step s = .next t ∧
      t.dstate = 0 ∧ t.acc = 0 ∧ t.rxor = 0 ∧ t.wr = 0 ∧ t.pstart = 0 ∧ t.rdSeen = 0 ∧ t.rd = 0 ∧ t.rdRelease = 0 ∧
      t.rawlen = 0 ∧ t.activePort = 0 ∧ t.sel = 0 ∧ t.readOutstanding = false ∧ t.fatal = false ∧ t.fatalCause = 0 ∧
      t.handoff = [] ∧ SameConstants s t ∧ t.envLog = s.envLog ∧
      (s.input.sourceCleared = false →
        t.srcPairs = s.srcPairs ++ s.input.arrivals ∧ t.srcOverrun = (s.srcOverrun || s.input.lost)) ∧
      (s.input.sourceCleared = true → t.srcPairs = [] ∧ t.srcOverrun = false)

/-- The state after reset (R48), with the tables the builder makes of the reference graph (R145, R147, R373), well-formed
response images (R293), and the parameters at their values of R5, R105, R106, R108 and R112; the contents of the images are
the model's choice (notes/assumptions/11). -/
def Obligations.ResetStateHasItsValues : Prop :=
  State.reset.dstate = 0 ∧ State.reset.acc = 0 ∧ State.reset.rxor = 0 ∧ State.reset.wr = 0 ∧ State.reset.pstart = 0 ∧
  State.reset.rdSeen = 0 ∧ State.reset.rd = 0 ∧ State.reset.rdRelease = 0 ∧ State.reset.rawlen = 0 ∧
  State.reset.activePort = 0 ∧ State.reset.sel = 0 ∧ State.reset.readOutstanding = false ∧ State.reset.fatal = false ∧
  State.reset.fatalCause = 0 ∧ State.reset.handoff = [] ∧
  ReferenceTables State.reset ∧ State.reset.ortab = dedup .oldestHigh refGraph ∧
  catalogWellFormed State.reset.cfg State.reset.tpl = true ∧
  State.reset.cfg =
    { pairOrder := .oldestHigh, pairLines := .bHigh, graph := refGraph, stateW := 6, entryW := 16, oridxW := 6,
      ringBits := 12, startAlign := .one, handoffDepth := 1, portShift := 6, cursorW := 32, numSel := 13, ctrlDynWords := 2, vibcondDynWords := 1,
      astWords := 1,
      codes :=
        { addrController := 0x20, addrSub0 := 0x01, addrSub1 := 0x02
          cmdRequestDeviceInfo := 1, cmdGetCondition := 9, cmdGetMediaInfo := 10, cmdBlockRead := 11
          cmdBlockWrite := 12, cmdBlockCompleteWrite := 13, cmdSetCondition := 14
          rspDeviceInfo := 5, rspAck := 7, rspDataTransfer := 8
          funcController := 0x1, funcMemoryCard := 0x2, funcLcd := 0x4, funcVibration := 0x100 } } ∧
  State.reset.cfg.ringSize = 4096 ∧ State.reset.cfg.numStates = 36 ∧ State.reset.tpl.length = 12 ∧ portMask State.reset.cfg.portShift = 0xC0 ∧
  codesLegal State.reset.cfg.portShift State.reset.cfg.codes = true

/-! ### Ownership and causes -/

/-- Each agent writes only its own state (R20, R346): a capture turn leaves the dispatch agent's registers, buffers and
requests and may only append to the handoff; a dispatch turn leaves the capture agent's registers and the ring and may only
take the oldest entry of the handoff. -/
def Obligations.AgentsKeepToTheirState : Prop :=
  ∀ s t : State, step s = .next t → s.input.rst = false →
    (s.input.agent = .capture → SameDispatch s t ∧ ∃ published : List Nat, t.handoff = s.handoff ++ published) ∧
    (s.input.agent = .dispatch → SameCapture s t ∧ (t.handoff = s.handoff ∨ t.handoff = s.handoff.tail) ∧
      t.srcPairs = s.srcPairs ++ s.input.arrivals)

/-- No step writes the constant memories: the tables and the response images (R81, R82, R296), nor the sizes. -/
def Obligations.StepKeepsConstantMemories : Prop := ∀ s t : State, step s = .next t → SameConstants s t

/-- A step that raises a fatal records one of the four causes, each under its own agent: 1, 2, 3 in a capture turn, 4 in a
dispatch turn that found a read outstanding (R331); a capture turn with cause 2 follows a loss in the sample source. -/
def Obligations.FatalCausesHaveTheirAgent : Prop :=
  ∀ s t : State, step s = .next t → s.fatal = false → t.fatal = true →
    (s.input.agent = .capture ∧
      (t.fatalCause = 1 ∨ t.fatalCause = 3 ∨ (t.fatalCause = 2 ∧ (s.srcOverrun = true ∨ s.input.lost = true)))) ∨
    (s.input.agent = .dispatch ∧ t.fatalCause = 4 ∧ s.readOutstanding = true ∧ t.sel = s.sel ∧
      t.readAddr = s.readAddr ∧ t.readUnit = s.readUnit)

/-! ### Invariants -/

/-- The state after reset meets the four invariants below. -/
def Obligations.ResetMeetsInvariants : Prop :=
  LegalState State.reset ∧ MemoriesFit State.reset ∧ CursorInv State.reset ∧ ChecksumInv State.reset

/-- Every step keeps a legal state legal: no reserved DecodeState, selector or cause, no cause without a fatal, the handoff
within its depth, masked addresses, a selected block-data response only with its read outstanding, the release cursor equal to
`rd`, cursors of `CURSOR_W` bits, and packet starts that are multiples of `START_ALIGN`, whichever it is (R21, R24, R28, R32,
R33, R34, R72, R196). -/
def Obligations.StepKeepsLegalState : Prop := ∀ s t : State, LegalState s → step s = .next t → LegalState t

/-- Every step keeps the canonical form of the two byte memories and their sizes (R60, R63, R64). -/
def Obligations.StepKeepsMemoriesFit : Prop := ∀ s t : State, MemoriesFit s → step s = .next t → MemoriesFit t

/-- Every step of either agent keeps the cursor invariants of R204 (for `START_ALIGN = 1`, see `CursorInv`). -/
def Obligations.StepKeepsCursorInvariants : Prop := ∀ s t : State, CursorInv s → step s = .next t → CursorInv t

/-- Every step keeps the published packets good: while a packet is received `rxor` is the exclusive OR of its bytes so far,
and every published run that is not yet copied out has exclusive OR zero (R192, R226). Without a reset it also lies unchanged
in the ring: every cursor from the read cursor after the step to the packet start before it reads as before (R78, R380). -/
def Obligations.StepKeepsPublishedPacketsGood : Prop :=
  ∀ s t : State, MemoriesFit s → CursorInv s → ChecksumInv s → step s = .next t →
    ChecksumInv t ∧
    (s.input.rst = false → ∀ c : Nat,
      cursorSub s.cfg.cursorW c t.rd < cursorSub s.cfg.cursorW s.pstart t.rd → t.ringRead c = s.ringRead c)

/-! ### The storage contract -/

/-- The round trip the source requires of the storage behind the block (R274, with R270, R272, R273): four phases written
to a block of the image and completed are read back as their concatenation, whatever a write outside the image does. The
machine does not use the storage (notes/assumptions/24). -/
def Obligations.StorageRoundTrip : Prop :=
  ∀ (oor : WriteOutOfRange) (img : CardImage) (block : BitVec 8) (partition : Byte) (d0 d1 d2 d3 : List Word),
    Memory.wf img → d0.length = 32 → d1.length = 32 → d2.length = 32 → d3.length = 32 →
    cardRead
      (cardComplete
        (cardWrite oor
          (cardWrite oor
            (cardWrite oor (cardWrite oor img (partition ++ (0 : Byte) ++ (0 : Byte) ++ block) d0)
              (partition ++ (1 : Byte) ++ (0 : Byte) ++ block) d1)
            (partition ++ (2 : Byte) ++ (0 : Byte) ++ block) d2)
          (partition ++ (3 : Byte) ++ (0 : Byte) ++ block) d3)
        (partition ++ (4 : Byte) ++ (0 : Byte) ++ block))
      (partition ++ (0 : Byte) ++ (0 : Byte) ++ block) = d0 ++ d1 ++ d2 ++ d3
end

