-- ==== Sys2Proof/Laws/Sparse.lean ====
section
/-! SUPPORT. The laws of memories in sparse form, whatever an unlisted index reads as: read after write, the frame of a write,
and the canonical form. -/

namespace Sys2Proof.Machine

variable {α : Type} {dflt : Nat → α}

@[simp] theorem Sparse.read_nil (a : Nat) : Sparse.read dflt [] a = dflt a := rfl

theorem Sparse.read_cons (k : Nat) (v : α) (m : List (Nat × α)) (a : Nat) :
    Sparse.read dflt ((k, v) :: m) a = if k = a then v else Sparse.read dflt m a := rfl

theorem Sparse.wf_nil : Sparse.wf dflt [] := by simp [Sparse.wf]

theorem Sparse.wf_tail {c : Nat × α} {m : List (Nat × α)} (h : Sparse.wf dflt (c :: m)) : Sparse.wf dflt m :=
  ⟨(List.pairwise_cons.mp h.1).2, fun d hd => h.2 d (List.mem_cons_of_mem _ hd)⟩

/-- An index below every listed one reads as the default. -/
theorem Sparse.read_below {m : List (Nat × α)} {a : Nat} (h : ∀ c ∈ m, a < c.1) : Sparse.read dflt m a = dflt a := by
  induction m with
  | nil => rfl
  | cons c m ih =>
    obtain ⟨k, v⟩ := c
    have hk : a < k := h (k, v) List.mem_cons_self
    rw [Sparse.read_cons, if_neg (by omega)]
    exact ih fun d hd => h d (List.mem_cons_of_mem _ hd)

/-- In a memory in canonical form the index of the head is listed nowhere else. -/
theorem Sparse.read_tail_head {k : Nat} {v : α} {m : List (Nat × α)} (h : Sparse.wf dflt ((k, v) :: m)) :
    Sparse.read dflt m k = dflt k :=
  Sparse.read_below fun c hc => (List.pairwise_cons.mp h.1).1 c hc

/-- Two memories in canonical form that read the same everywhere are the same data. -/
theorem Sparse.ext_read {m n : List (Nat × α)} (hm : Sparse.wf dflt m) (hn : Sparse.wf dflt n)
    (h : ∀ a, Sparse.read dflt m a = Sparse.read dflt n a) : m = n := by
  induction m generalizing n with
  | nil =>
    cases n with
    | nil => rfl
    | cons d n =>
      obtain ⟨k, v⟩ := d
      have := h k
      simp [Sparse.read_cons] at this
      exact absurd this.symm (hn.2 (k, v) List.mem_cons_self)
  | cons c m ih =>
    obtain ⟨k, u⟩ := c
    have hu : u ≠ dflt k := hm.2 (k, u) List.mem_cons_self
    cases n with
    | nil =>
      have := h k
      simp [Sparse.read_cons] at this
      exact absurd this hu
    | cons d n =>
      obtain ⟨j, v⟩ := d
      have hv : v ≠ dflt j := hn.2 (j, v) List.mem_cons_self
      have hkm := (List.pairwise_cons.mp hm.1).1
      have hjn := (List.pairwise_cons.mp hn.1).1
      have hkj : k = j := by
        rcases lt_trichotomy k j with hlt | heq | hgt
        · have e := h k
          rw [Sparse.read_cons, if_pos rfl, Sparse.read_below (m := (j, v) :: n)] at e
          · exact absurd e hu
          · intro d hd
            rcases List.mem_cons.mp hd with rfl | hd
            · exact hlt
            · exact lt_trans hlt (hjn d hd)
        · exact heq
        · have e := h j
          rw [Sparse.read_cons (k := j), if_pos rfl, Sparse.read_below (m := (k, u) :: m)] at e
          · exact absurd e.symm hv
          · intro d hd
            rcases List.mem_cons.mp hd with rfl | hd
            · exact hgt
            · exact lt_trans hgt (hkm d hd)
      subst hkj
      have huv : u = v := by simpa [Sparse.read_cons] using h k
      subst huv
      congr 1
      refine ih (Sparse.wf_tail hm) (Sparse.wf_tail hn) fun a => ?_
      by_cases ha : k = a
      · subst ha
        rw [Sparse.read_tail_head hm, Sparse.read_tail_head hn]
      · simpa [Sparse.read_cons, ha] using h a

variable [DecidableEq α]

/-- Read after write at the same index. -/
theorem Sparse.read_write_same {m : List (Nat × α)} (h : Sparse.wf dflt m) (a : Nat) (v : α) :
    Sparse.read dflt (Sparse.write dflt m a v) a = v := by
  induction m with
  | nil =>
    by_cases hv : v = dflt a
    · simp [Sparse.write, hv]
    · simp [Sparse.write, hv, Sparse.read_cons]
  | cons c m ih =>
    obtain ⟨k, u⟩ := c
    have hm := Sparse.wf_tail h
    unfold Sparse.write
    split
    · next hlt =>
      split
      · next hv =>
        subst hv
        exact Sparse.read_below fun d hd => by
          rcases List.mem_cons.mp hd with rfl | hd
          · exact hlt
          · exact lt_trans hlt ((List.pairwise_cons.mp h.1).1 d hd)
      · simp [Sparse.read_cons]
    · split
      · next hne heq =>
        subst heq
        split
        · next hv => subst hv; exact Sparse.read_tail_head h
        · simp [Sparse.read_cons]
      · next hlt hne =>
        rw [Sparse.read_cons, if_neg (fun e => hne e.symm)]
        exact ih hm

/-- A write leaves every other index alone. -/
theorem Sparse.read_write_other (m : List (Nat × α)) {a b : Nat} (v : α) (hab : b ≠ a) :
    Sparse.read dflt (Sparse.write dflt m a v) b = Sparse.read dflt m b := by
  have hba : a ≠ b := fun e => hab e.symm
  induction m with
  | nil =>
    by_cases hv : v = dflt a
    · simp [Sparse.write, hv]
    · simp [Sparse.write, hv, Sparse.read_cons, hba]
  | cons c m ih =>
    obtain ⟨k, u⟩ := c
    unfold Sparse.write
    split
    · split
      · rfl
      · rw [Sparse.read_cons, if_neg hba]
    · split
      · next heq =>
        subst heq
        split
        · rw [Sparse.read_cons, if_neg hba]
        · rw [Sparse.read_cons, Sparse.read_cons, if_neg hba, if_neg hba]
      · rw [Sparse.read_cons, Sparse.read_cons, ih]

/-- Every entry after a write is an old one or the value written. -/
theorem Sparse.mem_write {m : List (Nat × α)} {a : Nat} {v : α} {c : Nat × α} (h : c ∈ Sparse.write dflt m a v) :
    c ∈ m ∨ c = (a, v) := by
  induction m with
  | nil =>
    by_cases hv : v = dflt a
    · simp [Sparse.write, hv] at h
    · exact Or.inr (by simpa [Sparse.write, hv] using h)
  | cons d m ih =>
    obtain ⟨k, u⟩ := d
    unfold Sparse.write at h
    split at h
    · split at h
      · exact Or.inl h
      · exact (List.mem_cons.mp h).elim Or.inr Or.inl
    · split at h
      · split at h
        · exact Or.inl (List.mem_cons_of_mem _ h)
        · exact (List.mem_cons.mp h).elim Or.inr fun h => Or.inl (List.mem_cons_of_mem _ h)
      · rcases List.mem_cons.mp h with rfl | h
        · exact Or.inl List.mem_cons_self
        · exact (ih h).imp (List.mem_cons_of_mem _) id

/-- A write keeps the canonical form. -/
theorem Sparse.write_wf {m : List (Nat × α)} (h : Sparse.wf dflt m) (a : Nat) (v : α) : Sparse.wf dflt (Sparse.write dflt m a v) := by
  induction m with
  | nil =>
    by_cases hv : v = dflt a
    · simpa [Sparse.write, hv] using Sparse.wf_nil
    · simp [Sparse.write, hv, Sparse.wf]
  | cons c m ih =>
    obtain ⟨k, u⟩ := c
    have hm := Sparse.wf_tail h
    have hkey := (List.pairwise_cons.mp h.1).1
    unfold Sparse.write
    split
    · next hlt =>
      split
      · exact h
      · next hv =>
        refine ⟨List.pairwise_cons.mpr ⟨fun d hd => ?_, h.1⟩, fun d hd => ?_⟩
        · rcases List.mem_cons.mp hd with rfl | hd
          · exact hlt
          · exact lt_trans hlt (hkey d hd)
        · rcases List.mem_cons.mp hd with rfl | hd
          · exact hv
          · exact h.2 d hd
    · split
      · next heq =>
        subst heq
        split
        · exact hm
        · next hv =>
          refine ⟨List.pairwise_cons.mpr ⟨hkey, hm.1⟩, fun d hd => ?_⟩
          rcases List.mem_cons.mp hd with rfl | hd
          · exact hv
          · exact hm.2 d hd
      · next hlt hne =>
        refine ⟨List.pairwise_cons.mpr ⟨fun d hd => ?_, (ih hm).1⟩, fun d hd => ?_⟩
        · rcases Sparse.mem_write hd with hd | rfl
          · exact hkey d hd
          · show k < a
            omega
        · rcases List.mem_cons.mp hd with rfl | hd
          · exact h.2 _ List.mem_cons_self
          · exact (ih hm).2 d hd

end Sys2Proof.Machine
end

