-- ==== Sys2Proof/Laws/Builder.lean ====
section
/-! SUPPORT. What the builder accepts and what its answers are: the conditions one by one, the tables, the entry words,
and a table that lists nothing. -/

namespace Sys2Proof.Machine

/-! ### Conditions -/

/-- The five constraints of 00_scope R6 on the configuration, and codes that tell the requests apart. -/
theorem paramsLegal_iff {p : Config.Params} :
    paramsLegal p = true ↔
      2 * 1028 ≤ p.ringSize ∧ p.ringBits ≤ p.cursorW ∧ 1 ≤ p.handoffDepth ∧ p.stateW + 4 + p.oridxW = p.entryW ∧
        p.numStates ≤ 2 ^ p.stateW ∧ codesLegal p.portShift p.codes = true := by
  simp only [paramsLegal, Bool.and_eq_true, decide_eq_true_eq, and_assoc]

/-- An entry the builder can have made is inside the graph and the OR table, with flags of the table. -/
theorem entryLegal_iff {p : Config.Params} {e : Tte} :
    entryLegal p e = true ↔
      e.next < p.numStates ∧ e.oridx < (orTable p).length ∧
        flagsLegal p (e.push, e.reset, e.endFlag, e.error) = true := by
  simp only [entryLegal, Bool.and_eq_true, decide_eq_true_eq, and_assoc]

theorem ite_some_none {α : Type} {c : Prop} [Decidable c] {a : α} {r : Option α} :
    (if c then some a else r) = none ↔ ¬c ∧ r = none := by split <;> simp_all

/-- The builder accepts a graph exactly when all conditions of 40_table_builder R143 and R146 and of 00_scope R6 hold. -/
theorem graphError_none {p : Config.Params} :
    graphError p = none ↔
      p.graph.idle = 0 ∧ p.numStates ≠ 0 ∧ allEdges p.graph (fun e => decide (e.next < p.numStates)) = true ∧
        allEdges p.graph (fun e => (e.setmask &&& (e.setmask - 1)) == 0) = true ∧ p.numStates ≤ 2 ^ p.stateW ∧
        walksLegal p.pairOrder p.graph = true ∧ (dedup p.pairOrder p.graph).length ≤ 2 ^ p.oridxW := by
  simp only [graphError, ite_some_none, not_or, not_not, Bool.not_eq_true', Bool.not_eq_false, Nat.not_lt, and_true,
    and_assoc, ne_eq]

/-- An accepted graph has at most `2 ^ ORIDX_W` OR rows (00_scope R6). -/
theorem orTable_length_le {p : Config.Params} (h : builderRefuses p = none) : (orTable p).length ≤ 2 ^ p.oridxW := by
  unfold builderRefuses at h
  unfold orTable
  split at h
  · next hr =>
    rw [if_pos hr]
    obtain ⟨_, h⟩ := ite_some_none.mp h
    exact Nat.not_lt.mp (ite_some_none.mp h).1
  · next hr =>
    rw [if_neg hr]
    exact (graphError_none.mp h).2.2.2.2.2.2

/-- The builder answers with the tables of an accepted graph, and with its reason for any other. -/
theorem buildTables_cases (p : Config.Params) :
    (∃ e, builderRefuses p = some e ∧ buildTables p = .error e) ∨
    (builderRefuses p = none ∧
      buildTables p =
        .ok { table := (List.range (p.numStates * 256)).map (compiledWord p (orTable p)), ortab := orTable p }) := by
  unfold buildTables
  cases h : builderRefuses p with
  | none => exact .inr ⟨rfl, rfl⟩
  | some e => exact .inl ⟨e, rfl, rfl⟩

/-! ### Entry words -/

theorem unpack_pack {p : Config.Params} {e : Tte} (h : e.next < 2 ^ p.stateW) : unpackTte p (packTte p e) = e := by
  obtain ⟨n, a, b, c, d, o⟩ := e
  have hm : packTte p ⟨n, a, b, c, d, o⟩ % 2 ^ p.stateW = n := by
    unfold packTte
    rw [Nat.add_mul_mod_self_left]
    exact Nat.mod_eq_of_lt h
  have hd : packTte p ⟨n, a, b, c, d, o⟩ / 2 ^ p.stateW = a.toNat + 2 * b.toNat + 4 * c.toNat + 8 * d.toNat + 16 * o := by
    unfold packTte
    rw [Nat.add_mul_div_left _ _ (Nat.two_pow_pos _), Nat.div_eq_of_lt h, Nat.zero_add]
  unfold unpackTte
  simp only [hm, hd, Tte.mk.injEq, true_and]
  cases a <;> cases b <;> cases c <;> cases d <;> simp <;> omega

/-- The word of an entry inside its widths has `ENTRY_W` bits (30_encoding R95). -/
theorem packTte_lt {p : Config.Params} {e : Tte} (hw : p.stateW + 4 + p.oridxW = p.entryW) (hn : e.next < 2 ^ p.stateW)
    (ho : e.oridx < 2 ^ p.oridxW) : packTte p e < 2 ^ p.entryW := by
  have hf : e.push.toNat + 2 * e.reset.toNat + 4 * e.endFlag.toNat + 8 * e.error.toNat + 16 * e.oridx + 1 ≤
      2 ^ (4 + p.oridxW) := by
    rw [Nat.pow_add]
    have h1 := e.push.toNat_le; have h2 := e.reset.toNat_le; have h3 := e.endFlag.toNat_le; have h4 := e.error.toNat_le
    omega
  have := Nat.mul_le_mul_left (2 ^ p.stateW) hf
  rw [← Nat.pow_add, ← Nat.add_assoc, hw, Nat.mul_add] at this
  unfold packTte
  omega

/-! ### The memory `TABLE` -/

/-- A table that lists nothing holds the compiled words. -/
theorem State.tableWord_of_built {s : State} (h : s.table = []) (i : Nat) :
    s.tableWord i = compiledWord s.cfg s.ortab i := by
  simp [State.tableWord, h]

end Sys2Proof.Machine
end

