-- ==== Sys2Proof/Laws/Memory.lean ====
section
/-! SUPPORT. The laws of the byte memories: read after write, the frame of a write, and the canonical form. -/

namespace Sys2Proof.Machine

/-! ### Single bytes -/

@[simp] theorem Memory.read_nil (a : Nat) : Memory.read [] a = unwritten := rfl

theorem Memory.read_cons (k : Nat) (v : Byte) (m : Memory) (a : Nat) :
    Memory.read ((k, v) :: m) a = if k = a then v else Memory.read m a := rfl

theorem Memory.wf_nil : Memory.wf [] := Sparse.wf_nil

theorem Memory.wf_tail {c : Host.Cell} {m : Memory} (h : Memory.wf (c :: m)) : Memory.wf m := Sparse.wf_tail h

/-- Read after write at the same index. -/
theorem Memory.read_write_same {m : Memory} (h : Memory.wf m) (a : Nat) (v : Byte) :
    Memory.read (Memory.write m a v) a = v := Sparse.read_write_same h a v

/-- A write leaves every other index alone. -/
theorem Memory.read_write_other (m : Memory) {a b : Nat} (v : Byte) (hab : b ≠ a) :
    Memory.read (Memory.write m a v) b = Memory.read m b := Sparse.read_write_other m v hab

/-- Every entry after a write is an old one or the byte written. -/
theorem Memory.mem_write {m : Memory} {a : Nat} {v : Byte} {c : Host.Cell} (h : c ∈ Memory.write m a v) :
    c ∈ m ∨ c = (a, v) := Sparse.mem_write h

/-- A write keeps the canonical form. -/
theorem Memory.write_wf {m : Memory} (h : Memory.wf m) (a : Nat) (v : Byte) : Memory.wf (Memory.write m a v) :=
  Sparse.write_wf h a v

/-- Two memories in canonical form that read the same everywhere are the same data. -/
theorem Memory.ext_read {m n : Memory} (hm : Memory.wf m) (hn : Memory.wf n)
    (h : ∀ a, Memory.read m a = Memory.read n a) : m = n := Sparse.ext_read hm hn h

/-! ### Runs of bytes -/

theorem Memory.writeRun_wf {m : Memory} (h : Memory.wf m) (a : Nat) (bs : List Byte) :
    Memory.wf (Memory.writeRun m a bs) := by
  induction bs generalizing m a with
  | nil => exact h
  | cons b bs ih => exact ih (Memory.write_wf h a b) (a + 1)

/-- Every entry after a run of writes is an old one or lies in the run. -/
theorem Memory.mem_writeRun {m : Memory} {a : Nat} {bs : List Byte} {c : Host.Cell}
    (h : c ∈ Memory.writeRun m a bs) : c ∈ m ∨ (a ≤ c.1 ∧ c.1 < a + bs.length) := by
  induction bs generalizing m a with
  | nil => exact Or.inl h
  | cons b bs ih =>
    rcases ih h with hc | ⟨h1, h2⟩
    · rcases Memory.mem_write hc with hc | rfl
      · exact Or.inl hc
      · exact Or.inr ⟨le_refl _, by simp⟩
    · exact Or.inr ⟨by omega, by simp only [List.length_cons]; omega⟩

/-- Outside the run everything reads as before. -/
theorem Memory.read_writeRun_outside (m : Memory) {a i : Nat} (bs : List Byte) (h : i < a ∨ a + bs.length ≤ i) :
    Memory.read (Memory.writeRun m a bs) i = Memory.read m i := by
  induction bs generalizing m a with
  | nil => rfl
  | cons b bs ih =>
    simp only [List.length_cons] at h
    rw [Memory.writeRun, ih _ (by omega), Memory.read_write_other _ _ (by omega)]

/-- Inside the run each byte reads as written. -/
theorem Memory.read_writeRun_inside {m : Memory} (h : Memory.wf m) {a i : Nat} {bs : List Byte} {b : Byte}
    (hb : bs[i]? = some b) : Memory.read (Memory.writeRun m a bs) (a + i) = b := by
  induction bs generalizing m a i with
  | nil => simp at hb
  | cons c bs ih =>
    cases i with
    | zero =>
      obtain rfl : c = b := by simpa using hb
      rw [Memory.writeRun, Memory.read_writeRun_outside _ _ (by omega), Nat.add_zero, Memory.read_write_same h]
    | succ i =>
      have := ih (Memory.write_wf h a c) (a := a + 1) (i := i) (by simpa using hb)
      rw [Memory.writeRun, ← this]
      congr 1
      omega

@[simp] theorem Memory.length_prefixBytes (m : Memory) (n : Nat) : (Memory.prefixBytes m n).length = n := by
  simp [Memory.prefixBytes]

/-- Writing a run from index 0 and reading it back. -/
theorem Memory.prefixBytes_writeRun {m : Memory} (h : Memory.wf m) (bs : List Byte) :
    Memory.prefixBytes (Memory.writeRun m 0 bs) bs.length = bs := by
  apply List.ext_getElem
  · simp
  · intro i h1 h2
    have := Memory.read_writeRun_inside h (a := 0) (i := i) (bs := bs) (b := bs[i]) (by simp [h2])
    simpa [Memory.prefixBytes] using this

/-! ### The memories of the machine -/

theorem reset_ring_wf : Memory.wf State.reset.ring := Memory.wf_nil

theorem reset_raw_wf : Memory.wf State.reset.raw := Memory.wf_nil

theorem State.ringWrite_ring_wf {s : State} (h : Memory.wf s.ring) (c : Nat) (v : Byte) :
    Memory.wf (s.ringWrite c v).ring := Memory.write_wf h _ _

theorem State.ringIndex_lt (s : State) (c : Nat) : s.ringIndex c < s.cfg.ringSize :=
  Nat.mod_lt _ (Nat.two_pow_pos _)

@[simp] theorem State.length_ringRun (s : State) (c : Nat) (n : Nat) : (s.ringRun c n).length = n := by
  simp [State.ringRun]

end Sys2Proof.Machine
end

