-- ==== Sys2Proof/Laws/Cursor.lean ====
section
/-! SUPPORT. Cursor arithmetic modulo `2 ^ CURSOR_W`: a distance is characterised once, and the other laws follow from that. -/

namespace Sys2Proof.Machine

theorem cursorAdd_lt (w : Nat) (c : Nat) (n : Nat) : cursorAdd w c n < 2 ^ w := Nat.mod_lt _ (Nat.two_pow_pos w)

theorem cursorSub_lt (w : Nat) (b a : Nat) : cursorSub w b a < 2 ^ w := Nat.mod_lt _ (Nat.two_pow_pos w)

/-- Going the distance from `a` to `b` leads to `b`. -/
theorem cursorAdd_sub (w : Nat) (a b : Nat) : cursorAdd w a (cursorSub w b a) = b % 2 ^ w := by
  unfold cursorAdd cursorSub
  have h0 := Nat.two_pow_pos w
  generalize 2 ^ w = m at h0 ⊢
  have hr := Nat.mod_lt a h0
  have ha := Nat.div_add_mod a m
  rw [Nat.add_mod_mod, show a + (b + (m - a % m)) = b + m * (a / m + 1) by rw [Nat.mul_add]; omega,
    Nat.add_mul_mod_self_left]

/-- The distance from `a` to `b` is the one number below `2 ^ CURSOR_W` that leads from `a` to `b`. -/
theorem cursorSub_eq_iff {w : Nat} {a b : Nat} {n : Nat} :
    cursorSub w b a = n ↔ n < 2 ^ w ∧ (a + n) % 2 ^ w = b % 2 ^ w := by
  constructor
  · rintro rfl
    exact ⟨cursorSub_lt w b a, cursorAdd_sub w a b⟩
  · rintro ⟨hn, h⟩
    have he : a + cursorSub w b a ≡ a + n [MOD 2 ^ w] := (cursorAdd_sub w a b).trans h.symm
    exact (Nat.ModEq.add_left_cancel' a he).eq_of_lt_of_lt (cursorSub_lt w b a) hn

@[simp] theorem cursorSub_self (w : Nat) (a : Nat) : cursorSub w a a = 0 :=
  cursorSub_eq_iff.mpr ⟨Nat.two_pow_pos w, rfl⟩

/-- The distance covered by `n` bytes is `n`. -/
theorem cursorSub_cursorAdd {w n : Nat} (a : Nat) (h : n < 2 ^ w) : cursorSub w (cursorAdd w a n) a = n :=
  cursorSub_eq_iff.mpr ⟨h, by simp [cursorAdd]⟩

theorem cursorAdd_cursorAdd (w : Nat) (c : Nat) (m n : Nat) :
    cursorAdd w (cursorAdd w c m) n = cursorAdd w c (m + n) := by
  simp [cursorAdd, Nat.add_assoc]

/-- Distances add up while they do not reach `2 ^ CURSOR_W`. -/
theorem cursorSub_add {w : Nat} {a b c : Nat} (h : cursorSub w b a + cursorSub w c b < 2 ^ w) :
    cursorSub w c a = cursorSub w b a + cursorSub w c b := by
  refine cursorSub_eq_iff.mpr ⟨h, ?_⟩
  have h1 : (a + cursorSub w b a) % 2 ^ w = b % 2 ^ w := cursorAdd_sub w a b
  have h2 : (b + cursorSub w c b) % 2 ^ w = c % 2 ^ w := cursorAdd_sub w b c
  rw [← Nat.add_assoc, Nat.add_mod, h1, ← Nat.add_mod, h2]

/-- The distance between two cursors seen from a third that lies behind both. -/
theorem cursorSub_sub {w : Nat} {a b o : Nat} (h : cursorSub w a o ≤ cursorSub w b o) :
    cursorSub w b a = cursorSub w b o - cursorSub w a o := by
  refine cursorSub_eq_iff.mpr ⟨Nat.lt_of_le_of_lt (Nat.sub_le _ _) (cursorSub_lt w b o), ?_⟩
  have h1 : (o + cursorSub w a o) % 2 ^ w = a % 2 ^ w := cursorAdd_sub w o a
  rw [Nat.add_mod, ← h1, ← Nat.add_mod, show o + cursorSub w a o + (cursorSub w b o - cursorSub w a o) =
    o + cursorSub w b o by omega]
  exact cursorAdd_sub w o b

/-- The ring index of a cursor is that of the number it wraps (20_memory R74). -/
theorem cursorAdd_mod_ring {r w : Nat} (h : r ≤ w) (c : Nat) (n : Nat) : cursorAdd w c n % 2 ^ r = (c + n) % 2 ^ r :=
  Nat.mod_mod_of_dvd _ (Nat.pow_dvd_pow 2 h)

/-- Two cursors less than a ring apart from a third have the same ring index only at the same distance. -/
theorem ringIndex_inj {r w : Nat} {a b o : Nat} (h : r ≤ w) (ha : cursorSub w a o < 2 ^ r) (hb : cursorSub w b o < 2 ^ r)
    (he : a % 2 ^ r = b % 2 ^ r) : cursorSub w a o = cursorSub w b o := by
  have key : ∀ x, (o + cursorSub w x o) % 2 ^ r = x % 2 ^ r := fun x => by
    rw [← cursorAdd_mod_ring h, cursorAdd_sub]
    exact Nat.mod_mod_of_dvd _ (Nat.pow_dvd_pow 2 h)
  have : o + cursorSub w a o ≡ o + cursorSub w b o [MOD 2 ^ r] := (key a).trans (he.trans (key b).symm)
  exact (Nat.ModEq.add_left_cancel' o this).eq_of_lt_of_lt ha hb

/-- With `START_ALIGN = 1` alignment only wraps. -/
theorem alignUp_one (w : Nat) (x : Nat) : alignUp w x .one = x % 2 ^ w := by
  simp [alignUp, alignBytes, cursorAdd, Nat.mod_one]

theorem alignUp_lt (w : Nat) (x : Nat) (a : Config.StartAlign) : alignUp w x a < 2 ^ w :=
  Nat.lt_of_le_of_lt (Nat.sub_le _ _) (cursorAdd_lt w x _)

theorem alignUp_mod (w : Nat) (x : Nat) (a : Config.StartAlign) : alignUp w x a % alignBytes a = 0 :=
  Nat.mod_eq_zero_of_dvd (Nat.dvd_sub_mod _)

end Sys2Proof.Machine
end

