-- ==== Sys2Proof/Laws/State.lean ====
section
/-! SUPPORT. One lemma for each field and each named update of the state, so that no proof unfolds a record update. -/

namespace Sys2Proof.Machine

/-! ### `ringWrite` -/

@[simp] theorem State.ringWrite_cfg (s : State) (c : Nat) (v : Byte) : (s.ringWrite c v).cfg = s.cfg := rfl
@[simp] theorem State.ringWrite_table (s : State) (c : Nat) (v : Byte) : (s.ringWrite c v).table = s.table := rfl
@[simp] theorem State.ringWrite_ortab (s : State) (c : Nat) (v : Byte) : (s.ringWrite c v).ortab = s.ortab := rfl
@[simp] theorem State.ringWrite_tpl (s : State) (c : Nat) (v : Byte) : (s.ringWrite c v).tpl = s.tpl := rfl
@[simp] theorem State.ringWrite_dstate (s : State) (c : Nat) (v : Byte) : (s.ringWrite c v).dstate = s.dstate := rfl
@[simp] theorem State.ringWrite_acc (s : State) (c : Nat) (v : Byte) : (s.ringWrite c v).acc = s.acc := rfl
@[simp] theorem State.ringWrite_rxor (s : State) (c : Nat) (v : Byte) : (s.ringWrite c v).rxor = s.rxor := rfl
@[simp] theorem State.ringWrite_wr (s : State) (c : Nat) (v : Byte) : (s.ringWrite c v).wr = s.wr := rfl
@[simp] theorem State.ringWrite_pstart (s : State) (c : Nat) (v : Byte) : (s.ringWrite c v).pstart = s.pstart := rfl
@[simp] theorem State.ringWrite_rdSeen (s : State) (c : Nat) (v : Byte) : (s.ringWrite c v).rdSeen = s.rdSeen := rfl
@[simp] theorem State.ringWrite_errPulse (s : State) (c : Nat) (v : Byte) :
    (s.ringWrite c v).errPulse = s.errPulse := rfl
@[simp] theorem State.ringWrite_ring (s : State) (c : Nat) (v : Byte) :
    (s.ringWrite c v).ring = Memory.write s.ring (s.ringIndex c) v := rfl
@[simp] theorem State.ringWrite_handoff (s : State) (c : Nat) (v : Byte) :
    (s.ringWrite c v).handoff = s.handoff := rfl
@[simp] theorem State.ringWrite_fatal (s : State) (c : Nat) (v : Byte) : (s.ringWrite c v).fatal = s.fatal := rfl
@[simp] theorem State.ringWrite_fatalCause (s : State) (c : Nat) (v : Byte) :
    (s.ringWrite c v).fatalCause = s.fatalCause := rfl
@[simp] theorem State.ringWrite_rd (s : State) (c : Nat) (v : Byte) : (s.ringWrite c v).rd = s.rd := rfl
@[simp] theorem State.ringWrite_rdRelease (s : State) (c : Nat) (v : Byte) :
    (s.ringWrite c v).rdRelease = s.rdRelease := rfl
@[simp] theorem State.ringWrite_raw (s : State) (c : Nat) (v : Byte) : (s.ringWrite c v).raw = s.raw := rfl
@[simp] theorem State.ringWrite_rawlen (s : State) (c : Nat) (v : Byte) : (s.ringWrite c v).rawlen = s.rawlen := rfl
@[simp] theorem State.ringWrite_oversize (s : State) (c : Nat) (v : Byte) :
    (s.ringWrite c v).oversize = s.oversize := rfl
@[simp] theorem State.ringWrite_hcmd (s : State) (c : Nat) (v : Byte) : (s.ringWrite c v).hcmd = s.hcmd := rfl
@[simp] theorem State.ringWrite_hdst (s : State) (c : Nat) (v : Byte) : (s.ringWrite c v).hdst = s.hdst := rfl
@[simp] theorem State.ringWrite_horg (s : State) (c : Nat) (v : Byte) : (s.ringWrite c v).horg = s.horg := rfl
@[simp] theorem State.ringWrite_hnw (s : State) (c : Nat) (v : Byte) : (s.ringWrite c v).hnw = s.hnw := rfl
@[simp] theorem State.ringWrite_pw (s : State) (c : Nat) (v : Byte) : (s.ringWrite c v).pw = s.pw := rfl
@[simp] theorem State.ringWrite_activePort (s : State) (c : Nat) (v : Byte) :
    (s.ringWrite c v).activePort = s.activePort := rfl
@[simp] theorem State.ringWrite_sel (s : State) (c : Nat) (v : Byte) : (s.ringWrite c v).sel = s.sel := rfl
@[simp] theorem State.ringWrite_readOutstanding (s : State) (c : Nat) (v : Byte) :
    (s.ringWrite c v).readOutstanding = s.readOutstanding := rfl
@[simp] theorem State.ringWrite_readAddr (s : State) (c : Nat) (v : Byte) :
    (s.ringWrite c v).readAddr = s.readAddr := rfl
@[simp] theorem State.ringWrite_readUnit (s : State) (c : Nat) (v : Byte) :
    (s.ringWrite c v).readUnit = s.readUnit := rfl
@[simp] theorem State.ringWrite_out (s : State) (c : Nat) (v : Byte) : (s.ringWrite c v).out = s.out := rfl
@[simp] theorem State.ringWrite_idleOpportunity (s : State) (c : Nat) (v : Byte) :
    (s.ringWrite c v).idleOpportunity = s.idleOpportunity := rfl
@[simp] theorem State.ringWrite_srcPairs (s : State) (c : Nat) (v : Byte) :
    (s.ringWrite c v).srcPairs = s.srcPairs := rfl
@[simp] theorem State.ringWrite_srcOverrun (s : State) (c : Nat) (v : Byte) :
    (s.ringWrite c v).srcOverrun = s.srcOverrun := rfl
@[simp] theorem State.ringWrite_envLog (s : State) (c : Nat) (v : Byte) : (s.ringWrite c v).envLog = s.envLog := rfl
@[simp] theorem State.ringWrite_script (s : State) (c : Nat) (v : Byte) : (s.ringWrite c v).script = s.script := rfl
@[simp] theorem State.ringWrite_tick (s : State) (c : Nat) (v : Byte) : (s.ringWrite c v).tick = s.tick := rfl
@[simp] theorem State.ringWrite_input (s : State) (c : Nat) (v : Byte) : (s.ringWrite c v).input = s.input := rfl

/-! ### `handoffPush` -/

@[simp] theorem State.handoffPush_cfg (s : State) (v : Nat) : (s.handoffPush v).cfg = s.cfg := rfl
@[simp] theorem State.handoffPush_table (s : State) (v : Nat) : (s.handoffPush v).table = s.table := rfl
@[simp] theorem State.handoffPush_ortab (s : State) (v : Nat) : (s.handoffPush v).ortab = s.ortab := rfl
@[simp] theorem State.handoffPush_tpl (s : State) (v : Nat) : (s.handoffPush v).tpl = s.tpl := rfl
@[simp] theorem State.handoffPush_dstate (s : State) (v : Nat) : (s.handoffPush v).dstate = s.dstate := rfl
@[simp] theorem State.handoffPush_acc (s : State) (v : Nat) : (s.handoffPush v).acc = s.acc := rfl
@[simp] theorem State.handoffPush_rxor (s : State) (v : Nat) : (s.handoffPush v).rxor = s.rxor := rfl
@[simp] theorem State.handoffPush_wr (s : State) (v : Nat) : (s.handoffPush v).wr = s.wr := rfl
@[simp] theorem State.handoffPush_pstart (s : State) (v : Nat) : (s.handoffPush v).pstart = s.pstart := rfl
@[simp] theorem State.handoffPush_rdSeen (s : State) (v : Nat) : (s.handoffPush v).rdSeen = s.rdSeen := rfl
@[simp] theorem State.handoffPush_errPulse (s : State) (v : Nat) : (s.handoffPush v).errPulse = s.errPulse := rfl
@[simp] theorem State.handoffPush_ring (s : State) (v : Nat) : (s.handoffPush v).ring = s.ring := rfl
@[simp] theorem State.handoffPush_handoff (s : State) (v : Nat) : (s.handoffPush v).handoff = s.handoff ++ [v] := rfl
@[simp] theorem State.handoffPush_fatal (s : State) (v : Nat) : (s.handoffPush v).fatal = s.fatal := rfl
@[simp] theorem State.handoffPush_fatalCause (s : State) (v : Nat) :
    (s.handoffPush v).fatalCause = s.fatalCause := rfl
@[simp] theorem State.handoffPush_rd (s : State) (v : Nat) : (s.handoffPush v).rd = s.rd := rfl
@[simp] theorem State.handoffPush_rdRelease (s : State) (v : Nat) : (s.handoffPush v).rdRelease = s.rdRelease := rfl
@[simp] theorem State.handoffPush_raw (s : State) (v : Nat) : (s.handoffPush v).raw = s.raw := rfl
@[simp] theorem State.handoffPush_rawlen (s : State) (v : Nat) : (s.handoffPush v).rawlen = s.rawlen := rfl
@[simp] theorem State.handoffPush_oversize (s : State) (v : Nat) : (s.handoffPush v).oversize = s.oversize := rfl
@[simp] theorem State.handoffPush_hcmd (s : State) (v : Nat) : (s.handoffPush v).hcmd = s.hcmd := rfl
@[simp] theorem State.handoffPush_hdst (s : State) (v : Nat) : (s.handoffPush v).hdst = s.hdst := rfl
@[simp] theorem State.handoffPush_horg (s : State) (v : Nat) : (s.handoffPush v).horg = s.horg := rfl
@[simp] theorem State.handoffPush_hnw (s : State) (v : Nat) : (s.handoffPush v).hnw = s.hnw := rfl
@[simp] theorem State.handoffPush_pw (s : State) (v : Nat) : (s.handoffPush v).pw = s.pw := rfl
@[simp] theorem State.handoffPush_activePort (s : State) (v : Nat) :
    (s.handoffPush v).activePort = s.activePort := rfl
@[simp] theorem State.handoffPush_sel (s : State) (v : Nat) : (s.handoffPush v).sel = s.sel := rfl
@[simp] theorem State.handoffPush_readOutstanding (s : State) (v : Nat) :
    (s.handoffPush v).readOutstanding = s.readOutstanding := rfl
@[simp] theorem State.handoffPush_readAddr (s : State) (v : Nat) : (s.handoffPush v).readAddr = s.readAddr := rfl
@[simp] theorem State.handoffPush_readUnit (s : State) (v : Nat) : (s.handoffPush v).readUnit = s.readUnit := rfl
@[simp] theorem State.handoffPush_out (s : State) (v : Nat) : (s.handoffPush v).out = s.out := rfl
@[simp] theorem State.handoffPush_idleOpportunity (s : State) (v : Nat) :
    (s.handoffPush v).idleOpportunity = s.idleOpportunity := rfl
@[simp] theorem State.handoffPush_srcPairs (s : State) (v : Nat) : (s.handoffPush v).srcPairs = s.srcPairs := rfl
@[simp] theorem State.handoffPush_srcOverrun (s : State) (v : Nat) :
    (s.handoffPush v).srcOverrun = s.srcOverrun := rfl
@[simp] theorem State.handoffPush_envLog (s : State) (v : Nat) : (s.handoffPush v).envLog = s.envLog := rfl
@[simp] theorem State.handoffPush_script (s : State) (v : Nat) : (s.handoffPush v).script = s.script := rfl
@[simp] theorem State.handoffPush_tick (s : State) (v : Nat) : (s.handoffPush v).tick = s.tick := rfl
@[simp] theorem State.handoffPush_input (s : State) (v : Nat) : (s.handoffPush v).input = s.input := rfl

/-! ### `raiseFatal` -/

@[simp] theorem State.raiseFatal_cfg (s : State) (code : BitVec 3) : (s.raiseFatal code).cfg = s.cfg := rfl
@[simp] theorem State.raiseFatal_table (s : State) (code : BitVec 3) : (s.raiseFatal code).table = s.table := rfl
@[simp] theorem State.raiseFatal_ortab (s : State) (code : BitVec 3) : (s.raiseFatal code).ortab = s.ortab := rfl
@[simp] theorem State.raiseFatal_tpl (s : State) (code : BitVec 3) : (s.raiseFatal code).tpl = s.tpl := rfl
@[simp] theorem State.raiseFatal_dstate (s : State) (code : BitVec 3) : (s.raiseFatal code).dstate = s.dstate := rfl
@[simp] theorem State.raiseFatal_acc (s : State) (code : BitVec 3) : (s.raiseFatal code).acc = s.acc := rfl
@[simp] theorem State.raiseFatal_rxor (s : State) (code : BitVec 3) : (s.raiseFatal code).rxor = s.rxor := rfl
@[simp] theorem State.raiseFatal_wr (s : State) (code : BitVec 3) : (s.raiseFatal code).wr = s.wr := rfl
@[simp] theorem State.raiseFatal_pstart (s : State) (code : BitVec 3) : (s.raiseFatal code).pstart = s.pstart := rfl
@[simp] theorem State.raiseFatal_rdSeen (s : State) (code : BitVec 3) : (s.raiseFatal code).rdSeen = s.rdSeen := rfl
@[simp] theorem State.raiseFatal_errPulse (s : State) (code : BitVec 3) :
    (s.raiseFatal code).errPulse = s.errPulse := rfl
@[simp] theorem State.raiseFatal_ring (s : State) (code : BitVec 3) : (s.raiseFatal code).ring = s.ring := rfl
@[simp] theorem State.raiseFatal_handoff (s : State) (code : BitVec 3) : (s.raiseFatal code).handoff = s.handoff := rfl
@[simp] theorem State.raiseFatal_fatal (s : State) (code : BitVec 3) : (s.raiseFatal code).fatal = true := rfl
@[simp] theorem State.raiseFatal_fatalCause (s : State) (code : BitVec 3) :
    (s.raiseFatal code).fatalCause = if s.fatal then s.fatalCause else code := rfl
@[simp] theorem State.raiseFatal_rd (s : State) (code : BitVec 3) : (s.raiseFatal code).rd = s.rd := rfl
@[simp] theorem State.raiseFatal_rdRelease (s : State) (code : BitVec 3) :
    (s.raiseFatal code).rdRelease = s.rdRelease := rfl
@[simp] theorem State.raiseFatal_raw (s : State) (code : BitVec 3) : (s.raiseFatal code).raw = s.raw := rfl
@[simp] theorem State.raiseFatal_rawlen (s : State) (code : BitVec 3) : (s.raiseFatal code).rawlen = s.rawlen := rfl
@[simp] theorem State.raiseFatal_oversize (s : State) (code : BitVec 3) :
    (s.raiseFatal code).oversize = s.oversize := rfl
@[simp] theorem State.raiseFatal_hcmd (s : State) (code : BitVec 3) : (s.raiseFatal code).hcmd = s.hcmd := rfl
@[simp] theorem State.raiseFatal_hdst (s : State) (code : BitVec 3) : (s.raiseFatal code).hdst = s.hdst := rfl
@[simp] theorem State.raiseFatal_horg (s : State) (code : BitVec 3) : (s.raiseFatal code).horg = s.horg := rfl
@[simp] theorem State.raiseFatal_hnw (s : State) (code : BitVec 3) : (s.raiseFatal code).hnw = s.hnw := rfl
@[simp] theorem State.raiseFatal_pw (s : State) (code : BitVec 3) : (s.raiseFatal code).pw = s.pw := rfl
@[simp] theorem State.raiseFatal_activePort (s : State) (code : BitVec 3) :
    (s.raiseFatal code).activePort = s.activePort := rfl
@[simp] theorem State.raiseFatal_sel (s : State) (code : BitVec 3) : (s.raiseFatal code).sel = s.sel := rfl
@[simp] theorem State.raiseFatal_readOutstanding (s : State) (code : BitVec 3) :
    (s.raiseFatal code).readOutstanding = s.readOutstanding := rfl
@[simp] theorem State.raiseFatal_readAddr (s : State) (code : BitVec 3) :
    (s.raiseFatal code).readAddr = s.readAddr := rfl
@[simp] theorem State.raiseFatal_readUnit (s : State) (code : BitVec 3) :
    (s.raiseFatal code).readUnit = s.readUnit := rfl
@[simp] theorem State.raiseFatal_out (s : State) (code : BitVec 3) : (s.raiseFatal code).out = s.out := rfl
@[simp] theorem State.raiseFatal_idleOpportunity (s : State) (code : BitVec 3) :
    (s.raiseFatal code).idleOpportunity = s.idleOpportunity := rfl
@[simp] theorem State.raiseFatal_srcPairs (s : State) (code : BitVec 3) :
    (s.raiseFatal code).srcPairs = s.srcPairs := rfl
@[simp] theorem State.raiseFatal_srcOverrun (s : State) (code : BitVec 3) :
    (s.raiseFatal code).srcOverrun = s.srcOverrun := rfl
@[simp] theorem State.raiseFatal_envLog (s : State) (code : BitVec 3) : (s.raiseFatal code).envLog = s.envLog := rfl
@[simp] theorem State.raiseFatal_script (s : State) (code : BitVec 3) : (s.raiseFatal code).script = s.script := rfl
@[simp] theorem State.raiseFatal_tick (s : State) (code : BitVec 3) : (s.raiseFatal code).tick = s.tick := rfl
@[simp] theorem State.raiseFatal_input (s : State) (code : BitVec 3) : (s.raiseFatal code).input = s.input := rfl

/-! ### `drop` -/

@[simp] theorem State.drop_cfg (s : State) (r : DropReason) : (s.drop r).cfg = s.cfg := rfl
@[simp] theorem State.drop_table (s : State) (r : DropReason) : (s.drop r).table = s.table := rfl
@[simp] theorem State.drop_ortab (s : State) (r : DropReason) : (s.drop r).ortab = s.ortab := rfl
@[simp] theorem State.drop_tpl (s : State) (r : DropReason) : (s.drop r).tpl = s.tpl := rfl
@[simp] theorem State.drop_dstate (s : State) (r : DropReason) : (s.drop r).dstate = s.dstate := rfl
@[simp] theorem State.drop_acc (s : State) (r : DropReason) : (s.drop r).acc = s.acc := rfl
@[simp] theorem State.drop_rxor (s : State) (r : DropReason) : (s.drop r).rxor = s.rxor := rfl
@[simp] theorem State.drop_wr (s : State) (r : DropReason) : (s.drop r).wr = s.wr := rfl
@[simp] theorem State.drop_pstart (s : State) (r : DropReason) : (s.drop r).pstart = s.pstart := rfl
@[simp] theorem State.drop_rdSeen (s : State) (r : DropReason) : (s.drop r).rdSeen = s.rdSeen := rfl
@[simp] theorem State.drop_errPulse (s : State) (r : DropReason) : (s.drop r).errPulse = s.errPulse := rfl
@[simp] theorem State.drop_ring (s : State) (r : DropReason) : (s.drop r).ring = s.ring := rfl
@[simp] theorem State.drop_handoff (s : State) (r : DropReason) : (s.drop r).handoff = s.handoff := rfl
@[simp] theorem State.drop_fatal (s : State) (r : DropReason) : (s.drop r).fatal = s.fatal := rfl
@[simp] theorem State.drop_fatalCause (s : State) (r : DropReason) : (s.drop r).fatalCause = s.fatalCause := rfl
@[simp] theorem State.drop_rd (s : State) (r : DropReason) : (s.drop r).rd = s.rd := rfl
@[simp] theorem State.drop_rdRelease (s : State) (r : DropReason) : (s.drop r).rdRelease = s.rdRelease := rfl
@[simp] theorem State.drop_raw (s : State) (r : DropReason) : (s.drop r).raw = s.raw := rfl
@[simp] theorem State.drop_rawlen (s : State) (r : DropReason) : (s.drop r).rawlen = s.rawlen := rfl
@[simp] theorem State.drop_oversize (s : State) (r : DropReason) : (s.drop r).oversize = s.oversize := rfl
@[simp] theorem State.drop_hcmd (s : State) (r : DropReason) : (s.drop r).hcmd = s.hcmd := rfl
@[simp] theorem State.drop_hdst (s : State) (r : DropReason) : (s.drop r).hdst = s.hdst := rfl
@[simp] theorem State.drop_horg (s : State) (r : DropReason) : (s.drop r).horg = s.horg := rfl
@[simp] theorem State.drop_hnw (s : State) (r : DropReason) : (s.drop r).hnw = s.hnw := rfl
@[simp] theorem State.drop_pw (s : State) (r : DropReason) : (s.drop r).pw = s.pw := rfl
@[simp] theorem State.drop_activePort (s : State) (r : DropReason) : (s.drop r).activePort = s.activePort := rfl
@[simp] theorem State.drop_sel (s : State) (r : DropReason) : (s.drop r).sel = s.sel := rfl
@[simp] theorem State.drop_readOutstanding (s : State) (r : DropReason) :
    (s.drop r).readOutstanding = s.readOutstanding := rfl
@[simp] theorem State.drop_readAddr (s : State) (r : DropReason) : (s.drop r).readAddr = s.readAddr := rfl
@[simp] theorem State.drop_readUnit (s : State) (r : DropReason) : (s.drop r).readUnit = s.readUnit := rfl
@[simp] theorem State.drop_out (s : State) (r : DropReason) : (s.drop r).out = s.out := rfl
@[simp] theorem State.drop_idleOpportunity (s : State) (r : DropReason) :
    (s.drop r).idleOpportunity = s.idleOpportunity := rfl
@[simp] theorem State.drop_srcPairs (s : State) (r : DropReason) : (s.drop r).srcPairs = s.srcPairs := rfl
@[simp] theorem State.drop_srcOverrun (s : State) (r : DropReason) : (s.drop r).srcOverrun = s.srcOverrun := rfl
@[simp] theorem State.drop_envLog (s : State) (r : DropReason) : (s.drop r).envLog = s.envLog := rfl
@[simp] theorem State.drop_script (s : State) (r : DropReason) : (s.drop r).script = s.script := rfl
@[simp] theorem State.drop_tick (s : State) (r : DropReason) : (s.drop r).tick = s.tick := rfl
@[simp] theorem State.drop_input (s : State) (r : DropReason) : (s.drop r).input = s.input := rfl

/-! ### `select` -/

@[simp] theorem State.select_cfg (s : State) (x : BitVec 4) : (s.select x).cfg = s.cfg := rfl
@[simp] theorem State.select_table (s : State) (x : BitVec 4) : (s.select x).table = s.table := rfl
@[simp] theorem State.select_ortab (s : State) (x : BitVec 4) : (s.select x).ortab = s.ortab := rfl
@[simp] theorem State.select_tpl (s : State) (x : BitVec 4) : (s.select x).tpl = s.tpl := rfl
@[simp] theorem State.select_dstate (s : State) (x : BitVec 4) : (s.select x).dstate = s.dstate := rfl
@[simp] theorem State.select_acc (s : State) (x : BitVec 4) : (s.select x).acc = s.acc := rfl
@[simp] theorem State.select_rxor (s : State) (x : BitVec 4) : (s.select x).rxor = s.rxor := rfl
@[simp] theorem State.select_wr (s : State) (x : BitVec 4) : (s.select x).wr = s.wr := rfl
@[simp] theorem State.select_pstart (s : State) (x : BitVec 4) : (s.select x).pstart = s.pstart := rfl
@[simp] theorem State.select_rdSeen (s : State) (x : BitVec 4) : (s.select x).rdSeen = s.rdSeen := rfl
@[simp] theorem State.select_errPulse (s : State) (x : BitVec 4) : (s.select x).errPulse = s.errPulse := rfl
@[simp] theorem State.select_ring (s : State) (x : BitVec 4) : (s.select x).ring = s.ring := rfl
@[simp] theorem State.select_handoff (s : State) (x : BitVec 4) : (s.select x).handoff = s.handoff := rfl
@[simp] theorem State.select_fatal (s : State) (x : BitVec 4) : (s.select x).fatal = s.fatal := rfl
@[simp] theorem State.select_fatalCause (s : State) (x : BitVec 4) : (s.select x).fatalCause = s.fatalCause := rfl
@[simp] theorem State.select_rd (s : State) (x : BitVec 4) : (s.select x).rd = s.rd := rfl
@[simp] theorem State.select_rdRelease (s : State) (x : BitVec 4) : (s.select x).rdRelease = s.rdRelease := rfl
@[simp] theorem State.select_raw (s : State) (x : BitVec 4) : (s.select x).raw = s.raw := rfl
@[simp] theorem State.select_rawlen (s : State) (x : BitVec 4) : (s.select x).rawlen = s.rawlen := rfl
@[simp] theorem State.select_oversize (s : State) (x : BitVec 4) : (s.select x).oversize = s.oversize := rfl
@[simp] theorem State.select_hcmd (s : State) (x : BitVec 4) : (s.select x).hcmd = s.hcmd := rfl
@[simp] theorem State.select_hdst (s : State) (x : BitVec 4) : (s.select x).hdst = s.hdst := rfl
@[simp] theorem State.select_horg (s : State) (x : BitVec 4) : (s.select x).horg = s.horg := rfl
@[simp] theorem State.select_hnw (s : State) (x : BitVec 4) : (s.select x).hnw = s.hnw := rfl
@[simp] theorem State.select_pw (s : State) (x : BitVec 4) : (s.select x).pw = s.pw := rfl
@[simp] theorem State.select_activePort (s : State) (x : BitVec 4) : (s.select x).activePort = s.activePort := rfl
@[simp] theorem State.select_sel (s : State) (x : BitVec 4) : (s.select x).sel = x := rfl
@[simp] theorem State.select_readOutstanding (s : State) (x : BitVec 4) :
    (s.select x).readOutstanding = s.readOutstanding := rfl
@[simp] theorem State.select_readAddr (s : State) (x : BitVec 4) : (s.select x).readAddr = s.readAddr := rfl
@[simp] theorem State.select_readUnit (s : State) (x : BitVec 4) : (s.select x).readUnit = s.readUnit := rfl
@[simp] theorem State.select_out (s : State) (x : BitVec 4) : (s.select x).out = s.out := rfl
@[simp] theorem State.select_idleOpportunity (s : State) (x : BitVec 4) :
    (s.select x).idleOpportunity = s.idleOpportunity := rfl
@[simp] theorem State.select_srcPairs (s : State) (x : BitVec 4) : (s.select x).srcPairs = s.srcPairs := rfl
@[simp] theorem State.select_srcOverrun (s : State) (x : BitVec 4) : (s.select x).srcOverrun = s.srcOverrun := rfl
@[simp] theorem State.select_envLog (s : State) (x : BitVec 4) : (s.select x).envLog = s.envLog := rfl
@[simp] theorem State.select_script (s : State) (x : BitVec 4) : (s.select x).script = s.script := rfl
@[simp] theorem State.select_tick (s : State) (x : BitVec 4) : (s.select x).tick = s.tick := rfl
@[simp] theorem State.select_input (s : State) (x : BitVec 4) : (s.select x).input = s.input := rfl

/-! ### `request` -/

@[simp] theorem State.request_cfg (s : State) (r : EnvRequest) : (s.request r).cfg = s.cfg := rfl
@[simp] theorem State.request_table (s : State) (r : EnvRequest) : (s.request r).table = s.table := rfl
@[simp] theorem State.request_ortab (s : State) (r : EnvRequest) : (s.request r).ortab = s.ortab := rfl
@[simp] theorem State.request_tpl (s : State) (r : EnvRequest) : (s.request r).tpl = s.tpl := rfl
@[simp] theorem State.request_dstate (s : State) (r : EnvRequest) : (s.request r).dstate = s.dstate := rfl
@[simp] theorem State.request_acc (s : State) (r : EnvRequest) : (s.request r).acc = s.acc := rfl
@[simp] theorem State.request_rxor (s : State) (r : EnvRequest) : (s.request r).rxor = s.rxor := rfl
@[simp] theorem State.request_wr (s : State) (r : EnvRequest) : (s.request r).wr = s.wr := rfl
@[simp] theorem State.request_pstart (s : State) (r : EnvRequest) : (s.request r).pstart = s.pstart := rfl
@[simp] theorem State.request_rdSeen (s : State) (r : EnvRequest) : (s.request r).rdSeen = s.rdSeen := rfl
@[simp] theorem State.request_errPulse (s : State) (r : EnvRequest) : (s.request r).errPulse = s.errPulse := rfl
@[simp] theorem State.request_ring (s : State) (r : EnvRequest) : (s.request r).ring = s.ring := rfl
@[simp] theorem State.request_handoff (s : State) (r : EnvRequest) : (s.request r).handoff = s.handoff := rfl
@[simp] theorem State.request_fatal (s : State) (r : EnvRequest) : (s.request r).fatal = s.fatal := rfl
@[simp] theorem State.request_fatalCause (s : State) (r : EnvRequest) : (s.request r).fatalCause = s.fatalCause := rfl
@[simp] theorem State.request_rd (s : State) (r : EnvRequest) : (s.request r).rd = s.rd := rfl
@[simp] theorem State.request_rdRelease (s : State) (r : EnvRequest) : (s.request r).rdRelease = s.rdRelease := rfl
@[simp] theorem State.request_raw (s : State) (r : EnvRequest) : (s.request r).raw = s.raw := rfl
@[simp] theorem State.request_rawlen (s : State) (r : EnvRequest) : (s.request r).rawlen = s.rawlen := rfl
@[simp] theorem State.request_oversize (s : State) (r : EnvRequest) : (s.request r).oversize = s.oversize := rfl
@[simp] theorem State.request_hcmd (s : State) (r : EnvRequest) : (s.request r).hcmd = s.hcmd := rfl
@[simp] theorem State.request_hdst (s : State) (r : EnvRequest) : (s.request r).hdst = s.hdst := rfl
@[simp] theorem State.request_horg (s : State) (r : EnvRequest) : (s.request r).horg = s.horg := rfl
@[simp] theorem State.request_hnw (s : State) (r : EnvRequest) : (s.request r).hnw = s.hnw := rfl
@[simp] theorem State.request_pw (s : State) (r : EnvRequest) : (s.request r).pw = s.pw := rfl
@[simp] theorem State.request_activePort (s : State) (r : EnvRequest) : (s.request r).activePort = s.activePort := rfl
@[simp] theorem State.request_sel (s : State) (r : EnvRequest) : (s.request r).sel = s.sel := rfl
@[simp] theorem State.request_readOutstanding (s : State) (r : EnvRequest) :
    (s.request r).readOutstanding = s.readOutstanding := rfl
@[simp] theorem State.request_readAddr (s : State) (r : EnvRequest) : (s.request r).readAddr = s.readAddr := rfl
@[simp] theorem State.request_readUnit (s : State) (r : EnvRequest) : (s.request r).readUnit = s.readUnit := rfl
@[simp] theorem State.request_out (s : State) (r : EnvRequest) : (s.request r).out = s.out := rfl
@[simp] theorem State.request_idleOpportunity (s : State) (r : EnvRequest) :
    (s.request r).idleOpportunity = s.idleOpportunity := rfl
@[simp] theorem State.request_srcPairs (s : State) (r : EnvRequest) : (s.request r).srcPairs = s.srcPairs := rfl
@[simp] theorem State.request_srcOverrun (s : State) (r : EnvRequest) : (s.request r).srcOverrun = s.srcOverrun := rfl
@[simp] theorem State.request_envLog (s : State) (r : EnvRequest) : (s.request r).envLog = s.envLog ++ [r] := rfl
@[simp] theorem State.request_script (s : State) (r : EnvRequest) : (s.request r).script = s.script := rfl
@[simp] theorem State.request_tick (s : State) (r : EnvRequest) : (s.request r).tick = s.tick := rfl
@[simp] theorem State.request_input (s : State) (r : EnvRequest) : (s.request r).input = s.input := rfl

/-! ### `intake` -/

@[simp] theorem State.intake_cfg (s : State) : (s.intake).cfg = s.cfg := rfl
@[simp] theorem State.intake_table (s : State) : (s.intake).table = s.table := rfl
@[simp] theorem State.intake_ortab (s : State) : (s.intake).ortab = s.ortab := rfl
@[simp] theorem State.intake_tpl (s : State) : (s.intake).tpl = s.tpl := rfl
@[simp] theorem State.intake_dstate (s : State) : (s.intake).dstate = s.dstate := rfl
@[simp] theorem State.intake_acc (s : State) : (s.intake).acc = s.acc := rfl
@[simp] theorem State.intake_rxor (s : State) : (s.intake).rxor = s.rxor := rfl
@[simp] theorem State.intake_wr (s : State) : (s.intake).wr = s.wr := rfl
@[simp] theorem State.intake_pstart (s : State) : (s.intake).pstart = s.pstart := rfl
@[simp] theorem State.intake_rdSeen (s : State) : (s.intake).rdSeen = s.rdSeen := rfl
@[simp] theorem State.intake_errPulse (s : State) : (s.intake).errPulse = s.errPulse := rfl
@[simp] theorem State.intake_ring (s : State) : (s.intake).ring = s.ring := rfl
@[simp] theorem State.intake_handoff (s : State) : (s.intake).handoff = s.handoff := rfl
@[simp] theorem State.intake_fatal (s : State) : (s.intake).fatal = s.fatal := rfl
@[simp] theorem State.intake_fatalCause (s : State) : (s.intake).fatalCause = s.fatalCause := rfl
@[simp] theorem State.intake_rd (s : State) : (s.intake).rd = s.rd := rfl
@[simp] theorem State.intake_rdRelease (s : State) : (s.intake).rdRelease = s.rdRelease := rfl
@[simp] theorem State.intake_raw (s : State) : (s.intake).raw = s.raw := rfl
@[simp] theorem State.intake_rawlen (s : State) : (s.intake).rawlen = s.rawlen := rfl
@[simp] theorem State.intake_oversize (s : State) : (s.intake).oversize = s.oversize := rfl
@[simp] theorem State.intake_hcmd (s : State) : (s.intake).hcmd = s.hcmd := rfl
@[simp] theorem State.intake_hdst (s : State) : (s.intake).hdst = s.hdst := rfl
@[simp] theorem State.intake_horg (s : State) : (s.intake).horg = s.horg := rfl
@[simp] theorem State.intake_hnw (s : State) : (s.intake).hnw = s.hnw := rfl
@[simp] theorem State.intake_pw (s : State) : (s.intake).pw = s.pw := rfl
@[simp] theorem State.intake_activePort (s : State) : (s.intake).activePort = s.activePort := rfl
@[simp] theorem State.intake_sel (s : State) : (s.intake).sel = s.sel := rfl
@[simp] theorem State.intake_readOutstanding (s : State) : (s.intake).readOutstanding = s.readOutstanding := rfl
@[simp] theorem State.intake_readAddr (s : State) : (s.intake).readAddr = s.readAddr := rfl
@[simp] theorem State.intake_readUnit (s : State) : (s.intake).readUnit = s.readUnit := rfl
@[simp] theorem State.intake_out (s : State) : (s.intake).out = s.out := rfl
@[simp] theorem State.intake_idleOpportunity (s : State) : (s.intake).idleOpportunity = s.idleOpportunity := rfl
@[simp] theorem State.intake_srcPairs (s : State) : (s.intake).srcPairs = s.srcPairs ++ s.input.arrivals := rfl
@[simp] theorem State.intake_srcOverrun (s : State) : (s.intake).srcOverrun = (s.srcOverrun || s.input.lost) := rfl
@[simp] theorem State.intake_envLog (s : State) : (s.intake).envLog = s.envLog := rfl
@[simp] theorem State.intake_script (s : State) : (s.intake).script = s.script := rfl
@[simp] theorem State.intake_tick (s : State) : (s.intake).tick = s.tick := rfl
@[simp] theorem State.intake_input (s : State) : (s.intake).input = s.input := rfl

/-! ### `advance` -/

@[simp] theorem State.advance_cfg (s : State) : (s.advance).cfg = s.cfg := rfl
@[simp] theorem State.advance_table (s : State) : (s.advance).table = s.table := rfl
@[simp] theorem State.advance_ortab (s : State) : (s.advance).ortab = s.ortab := rfl
@[simp] theorem State.advance_tpl (s : State) : (s.advance).tpl = s.tpl := rfl
@[simp] theorem State.advance_dstate (s : State) : (s.advance).dstate = s.dstate := rfl
@[simp] theorem State.advance_acc (s : State) : (s.advance).acc = s.acc := rfl
@[simp] theorem State.advance_rxor (s : State) : (s.advance).rxor = s.rxor := rfl
@[simp] theorem State.advance_wr (s : State) : (s.advance).wr = s.wr := rfl
@[simp] theorem State.advance_pstart (s : State) : (s.advance).pstart = s.pstart := rfl
@[simp] theorem State.advance_rdSeen (s : State) : (s.advance).rdSeen = s.rdSeen := rfl
@[simp] theorem State.advance_errPulse (s : State) : (s.advance).errPulse = s.errPulse := rfl
@[simp] theorem State.advance_ring (s : State) : (s.advance).ring = s.ring := rfl
@[simp] theorem State.advance_handoff (s : State) : (s.advance).handoff = s.handoff := rfl
@[simp] theorem State.advance_fatal (s : State) : (s.advance).fatal = s.fatal := rfl
@[simp] theorem State.advance_fatalCause (s : State) : (s.advance).fatalCause = s.fatalCause := rfl
@[simp] theorem State.advance_rd (s : State) : (s.advance).rd = s.rd := rfl
@[simp] theorem State.advance_rdRelease (s : State) : (s.advance).rdRelease = s.rdRelease := rfl
@[simp] theorem State.advance_raw (s : State) : (s.advance).raw = s.raw := rfl
@[simp] theorem State.advance_rawlen (s : State) : (s.advance).rawlen = s.rawlen := rfl
@[simp] theorem State.advance_oversize (s : State) : (s.advance).oversize = s.oversize := rfl
@[simp] theorem State.advance_hcmd (s : State) : (s.advance).hcmd = s.hcmd := rfl
@[simp] theorem State.advance_hdst (s : State) : (s.advance).hdst = s.hdst := rfl
@[simp] theorem State.advance_horg (s : State) : (s.advance).horg = s.horg := rfl
@[simp] theorem State.advance_hnw (s : State) : (s.advance).hnw = s.hnw := rfl
@[simp] theorem State.advance_pw (s : State) : (s.advance).pw = s.pw := rfl
@[simp] theorem State.advance_activePort (s : State) : (s.advance).activePort = s.activePort := rfl
@[simp] theorem State.advance_sel (s : State) : (s.advance).sel = s.sel := rfl
@[simp] theorem State.advance_readOutstanding (s : State) : (s.advance).readOutstanding = s.readOutstanding := rfl
@[simp] theorem State.advance_readAddr (s : State) : (s.advance).readAddr = s.readAddr := rfl
@[simp] theorem State.advance_readUnit (s : State) : (s.advance).readUnit = s.readUnit := rfl
@[simp] theorem State.advance_out (s : State) : (s.advance).out = s.out := rfl
@[simp] theorem State.advance_idleOpportunity (s : State) : (s.advance).idleOpportunity = s.idleOpportunity := rfl
@[simp] theorem State.advance_srcPairs (s : State) : (s.advance).srcPairs = s.srcPairs := rfl
@[simp] theorem State.advance_srcOverrun (s : State) : (s.advance).srcOverrun = s.srcOverrun := rfl
@[simp] theorem State.advance_envLog (s : State) : (s.advance).envLog = s.envLog := rfl
@[simp] theorem State.advance_script (s : State) : (s.advance).script = s.script.tail := rfl
@[simp] theorem State.advance_tick (s : State) : (s.advance).tick = s.tick + 1 := rfl

/-! ### `actNext` -/

@[simp] theorem State.actNext_cfg (s : State) (n : Nat) : (s.actNext n).cfg = s.cfg := rfl
@[simp] theorem State.actNext_table (s : State) (n : Nat) : (s.actNext n).table = s.table := rfl
@[simp] theorem State.actNext_ortab (s : State) (n : Nat) : (s.actNext n).ortab = s.ortab := rfl
@[simp] theorem State.actNext_tpl (s : State) (n : Nat) : (s.actNext n).tpl = s.tpl := rfl
@[simp] theorem State.actNext_dstate (s : State) (n : Nat) : (s.actNext n).dstate = n := rfl
@[simp] theorem State.actNext_acc (s : State) (n : Nat) : (s.actNext n).acc = s.acc := rfl
@[simp] theorem State.actNext_rxor (s : State) (n : Nat) : (s.actNext n).rxor = s.rxor := rfl
@[simp] theorem State.actNext_wr (s : State) (n : Nat) : (s.actNext n).wr = s.wr := rfl
@[simp] theorem State.actNext_pstart (s : State) (n : Nat) : (s.actNext n).pstart = s.pstart := rfl
@[simp] theorem State.actNext_rdSeen (s : State) (n : Nat) : (s.actNext n).rdSeen = s.rdSeen := rfl
@[simp] theorem State.actNext_errPulse (s : State) (n : Nat) : (s.actNext n).errPulse = s.errPulse := rfl
@[simp] theorem State.actNext_ring (s : State) (n : Nat) : (s.actNext n).ring = s.ring := rfl
@[simp] theorem State.actNext_handoff (s : State) (n : Nat) : (s.actNext n).handoff = s.handoff := rfl
@[simp] theorem State.actNext_fatal (s : State) (n : Nat) : (s.actNext n).fatal = s.fatal := rfl
@[simp] theorem State.actNext_fatalCause (s : State) (n : Nat) : (s.actNext n).fatalCause = s.fatalCause := rfl
@[simp] theorem State.actNext_rd (s : State) (n : Nat) : (s.actNext n).rd = s.rd := rfl
@[simp] theorem State.actNext_rdRelease (s : State) (n : Nat) : (s.actNext n).rdRelease = s.rdRelease := rfl
@[simp] theorem State.actNext_raw (s : State) (n : Nat) : (s.actNext n).raw = s.raw := rfl
@[simp] theorem State.actNext_rawlen (s : State) (n : Nat) : (s.actNext n).rawlen = s.rawlen := rfl
@[simp] theorem State.actNext_oversize (s : State) (n : Nat) : (s.actNext n).oversize = s.oversize := rfl
@[simp] theorem State.actNext_hcmd (s : State) (n : Nat) : (s.actNext n).hcmd = s.hcmd := rfl
@[simp] theorem State.actNext_hdst (s : State) (n : Nat) : (s.actNext n).hdst = s.hdst := rfl
@[simp] theorem State.actNext_horg (s : State) (n : Nat) : (s.actNext n).horg = s.horg := rfl
@[simp] theorem State.actNext_hnw (s : State) (n : Nat) : (s.actNext n).hnw = s.hnw := rfl
@[simp] theorem State.actNext_pw (s : State) (n : Nat) : (s.actNext n).pw = s.pw := rfl
@[simp] theorem State.actNext_activePort (s : State) (n : Nat) : (s.actNext n).activePort = s.activePort := rfl
@[simp] theorem State.actNext_sel (s : State) (n : Nat) : (s.actNext n).sel = s.sel := rfl
@[simp] theorem State.actNext_readOutstanding (s : State) (n : Nat) :
    (s.actNext n).readOutstanding = s.readOutstanding := rfl
@[simp] theorem State.actNext_readAddr (s : State) (n : Nat) : (s.actNext n).readAddr = s.readAddr := rfl
@[simp] theorem State.actNext_readUnit (s : State) (n : Nat) : (s.actNext n).readUnit = s.readUnit := rfl
@[simp] theorem State.actNext_out (s : State) (n : Nat) : (s.actNext n).out = s.out := rfl
@[simp] theorem State.actNext_idleOpportunity (s : State) (n : Nat) :
    (s.actNext n).idleOpportunity = s.idleOpportunity := rfl
@[simp] theorem State.actNext_srcPairs (s : State) (n : Nat) : (s.actNext n).srcPairs = s.srcPairs := rfl
@[simp] theorem State.actNext_srcOverrun (s : State) (n : Nat) : (s.actNext n).srcOverrun = s.srcOverrun := rfl
@[simp] theorem State.actNext_envLog (s : State) (n : Nat) : (s.actNext n).envLog = s.envLog := rfl
@[simp] theorem State.actNext_script (s : State) (n : Nat) : (s.actNext n).script = s.script := rfl
@[simp] theorem State.actNext_tick (s : State) (n : Nat) : (s.actNext n).tick = s.tick := rfl
@[simp] theorem State.actNext_input (s : State) (n : Nat) : (s.actNext n).input = s.input := rfl

/-! ### `actReset` -/

@[simp] theorem State.actReset_cfg (s : State) : (s.actReset).cfg = s.cfg := rfl
@[simp] theorem State.actReset_table (s : State) : (s.actReset).table = s.table := rfl
@[simp] theorem State.actReset_ortab (s : State) : (s.actReset).ortab = s.ortab := rfl
@[simp] theorem State.actReset_tpl (s : State) : (s.actReset).tpl = s.tpl := rfl
@[simp] theorem State.actReset_dstate (s : State) : (s.actReset).dstate = s.dstate := rfl
@[simp] theorem State.actReset_acc (s : State) : (s.actReset).acc = 0 := rfl
@[simp] theorem State.actReset_rxor (s : State) : (s.actReset).rxor = 0 := rfl
@[simp] theorem State.actReset_wr (s : State) : (s.actReset).wr = s.pstart := rfl
@[simp] theorem State.actReset_pstart (s : State) : (s.actReset).pstart = s.pstart := rfl
@[simp] theorem State.actReset_rdSeen (s : State) : (s.actReset).rdSeen = s.rdSeen := rfl
@[simp] theorem State.actReset_errPulse (s : State) : (s.actReset).errPulse = s.errPulse := rfl
@[simp] theorem State.actReset_ring (s : State) : (s.actReset).ring = s.ring := rfl
@[simp] theorem State.actReset_handoff (s : State) : (s.actReset).handoff = s.handoff := rfl
@[simp] theorem State.actReset_fatal (s : State) : (s.actReset).fatal = s.fatal := rfl
@[simp] theorem State.actReset_fatalCause (s : State) : (s.actReset).fatalCause = s.fatalCause := rfl
@[simp] theorem State.actReset_rd (s : State) : (s.actReset).rd = s.rd := rfl
@[simp] theorem State.actReset_rdRelease (s : State) : (s.actReset).rdRelease = s.rdRelease := rfl
@[simp] theorem State.actReset_raw (s : State) : (s.actReset).raw = s.raw := rfl
@[simp] theorem State.actReset_rawlen (s : State) : (s.actReset).rawlen = s.rawlen := rfl
@[simp] theorem State.actReset_oversize (s : State) : (s.actReset).oversize = s.oversize := rfl
@[simp] theorem State.actReset_hcmd (s : State) : (s.actReset).hcmd = s.hcmd := rfl
@[simp] theorem State.actReset_hdst (s : State) : (s.actReset).hdst = s.hdst := rfl
@[simp] theorem State.actReset_horg (s : State) : (s.actReset).horg = s.horg := rfl
@[simp] theorem State.actReset_hnw (s : State) : (s.actReset).hnw = s.hnw := rfl
@[simp] theorem State.actReset_pw (s : State) : (s.actReset).pw = s.pw := rfl
@[simp] theorem State.actReset_activePort (s : State) : (s.actReset).activePort = s.activePort := rfl
@[simp] theorem State.actReset_sel (s : State) : (s.actReset).sel = s.sel := rfl
@[simp] theorem State.actReset_readOutstanding (s : State) : (s.actReset).readOutstanding = s.readOutstanding := rfl
@[simp] theorem State.actReset_readAddr (s : State) : (s.actReset).readAddr = s.readAddr := rfl
@[simp] theorem State.actReset_readUnit (s : State) : (s.actReset).readUnit = s.readUnit := rfl
@[simp] theorem State.actReset_out (s : State) : (s.actReset).out = s.out := rfl
@[simp] theorem State.actReset_idleOpportunity (s : State) : (s.actReset).idleOpportunity = s.idleOpportunity := rfl
@[simp] theorem State.actReset_srcPairs (s : State) : (s.actReset).srcPairs = s.srcPairs := rfl
@[simp] theorem State.actReset_srcOverrun (s : State) : (s.actReset).srcOverrun = s.srcOverrun := rfl
@[simp] theorem State.actReset_envLog (s : State) : (s.actReset).envLog = s.envLog := rfl
@[simp] theorem State.actReset_script (s : State) : (s.actReset).script = s.script := rfl
@[simp] theorem State.actReset_tick (s : State) : (s.actReset).tick = s.tick := rfl
@[simp] theorem State.actReset_input (s : State) : (s.actReset).input = s.input := rfl

/-! ### `actOr` -/

@[simp] theorem State.actOr_cfg (s : State) (b : Byte) : (s.actOr b).cfg = s.cfg := rfl
@[simp] theorem State.actOr_table (s : State) (b : Byte) : (s.actOr b).table = s.table := rfl
@[simp] theorem State.actOr_ortab (s : State) (b : Byte) : (s.actOr b).ortab = s.ortab := rfl
@[simp] theorem State.actOr_tpl (s : State) (b : Byte) : (s.actOr b).tpl = s.tpl := rfl
@[simp] theorem State.actOr_dstate (s : State) (b : Byte) : (s.actOr b).dstate = s.dstate := rfl
@[simp] theorem State.actOr_acc (s : State) (b : Byte) : (s.actOr b).acc = s.acc ||| b := rfl
@[simp] theorem State.actOr_rxor (s : State) (b : Byte) : (s.actOr b).rxor = s.rxor := rfl
@[simp] theorem State.actOr_wr (s : State) (b : Byte) : (s.actOr b).wr = s.wr := rfl
@[simp] theorem State.actOr_pstart (s : State) (b : Byte) : (s.actOr b).pstart = s.pstart := rfl
@[simp] theorem State.actOr_rdSeen (s : State) (b : Byte) : (s.actOr b).rdSeen = s.rdSeen := rfl
@[simp] theorem State.actOr_errPulse (s : State) (b : Byte) : (s.actOr b).errPulse = s.errPulse := rfl
@[simp] theorem State.actOr_ring (s : State) (b : Byte) : (s.actOr b).ring = s.ring := rfl
@[simp] theorem State.actOr_handoff (s : State) (b : Byte) : (s.actOr b).handoff = s.handoff := rfl
@[simp] theorem State.actOr_fatal (s : State) (b : Byte) : (s.actOr b).fatal = s.fatal := rfl
@[simp] theorem State.actOr_fatalCause (s : State) (b : Byte) : (s.actOr b).fatalCause = s.fatalCause := rfl
@[simp] theorem State.actOr_rd (s : State) (b : Byte) : (s.actOr b).rd = s.rd := rfl
@[simp] theorem State.actOr_rdRelease (s : State) (b : Byte) : (s.actOr b).rdRelease = s.rdRelease := rfl
@[simp] theorem State.actOr_raw (s : State) (b : Byte) : (s.actOr b).raw = s.raw := rfl
@[simp] theorem State.actOr_rawlen (s : State) (b : Byte) : (s.actOr b).rawlen = s.rawlen := rfl
@[simp] theorem State.actOr_oversize (s : State) (b : Byte) : (s.actOr b).oversize = s.oversize := rfl
@[simp] theorem State.actOr_hcmd (s : State) (b : Byte) : (s.actOr b).hcmd = s.hcmd := rfl
@[simp] theorem State.actOr_hdst (s : State) (b : Byte) : (s.actOr b).hdst = s.hdst := rfl
@[simp] theorem State.actOr_horg (s : State) (b : Byte) : (s.actOr b).horg = s.horg := rfl
@[simp] theorem State.actOr_hnw (s : State) (b : Byte) : (s.actOr b).hnw = s.hnw := rfl
@[simp] theorem State.actOr_pw (s : State) (b : Byte) : (s.actOr b).pw = s.pw := rfl
@[simp] theorem State.actOr_activePort (s : State) (b : Byte) : (s.actOr b).activePort = s.activePort := rfl
@[simp] theorem State.actOr_sel (s : State) (b : Byte) : (s.actOr b).sel = s.sel := rfl
@[simp] theorem State.actOr_readOutstanding (s : State) (b : Byte) :
    (s.actOr b).readOutstanding = s.readOutstanding := rfl
@[simp] theorem State.actOr_readAddr (s : State) (b : Byte) : (s.actOr b).readAddr = s.readAddr := rfl
@[simp] theorem State.actOr_readUnit (s : State) (b : Byte) : (s.actOr b).readUnit = s.readUnit := rfl
@[simp] theorem State.actOr_out (s : State) (b : Byte) : (s.actOr b).out = s.out := rfl
@[simp] theorem State.actOr_idleOpportunity (s : State) (b : Byte) :
    (s.actOr b).idleOpportunity = s.idleOpportunity := rfl
@[simp] theorem State.actOr_srcPairs (s : State) (b : Byte) : (s.actOr b).srcPairs = s.srcPairs := rfl
@[simp] theorem State.actOr_srcOverrun (s : State) (b : Byte) : (s.actOr b).srcOverrun = s.srcOverrun := rfl
@[simp] theorem State.actOr_envLog (s : State) (b : Byte) : (s.actOr b).envLog = s.envLog := rfl
@[simp] theorem State.actOr_script (s : State) (b : Byte) : (s.actOr b).script = s.script := rfl
@[simp] theorem State.actOr_tick (s : State) (b : Byte) : (s.actOr b).tick = s.tick := rfl
@[simp] theorem State.actOr_input (s : State) (b : Byte) : (s.actOr b).input = s.input := rfl

/-! ### `actError` -/

@[simp] theorem State.actError_cfg (s : State) : (s.actError).cfg = s.cfg := rfl
@[simp] theorem State.actError_table (s : State) : (s.actError).table = s.table := rfl
@[simp] theorem State.actError_ortab (s : State) : (s.actError).ortab = s.ortab := rfl
@[simp] theorem State.actError_tpl (s : State) : (s.actError).tpl = s.tpl := rfl
@[simp] theorem State.actError_dstate (s : State) : (s.actError).dstate = s.dstate := rfl
@[simp] theorem State.actError_acc (s : State) : (s.actError).acc = s.acc := rfl
@[simp] theorem State.actError_rxor (s : State) : (s.actError).rxor = s.rxor := rfl
@[simp] theorem State.actError_wr (s : State) : (s.actError).wr = s.wr := rfl
@[simp] theorem State.actError_pstart (s : State) : (s.actError).pstart = s.pstart := rfl
@[simp] theorem State.actError_rdSeen (s : State) : (s.actError).rdSeen = s.rdSeen := rfl
@[simp] theorem State.actError_errPulse (s : State) : (s.actError).errPulse = true := rfl
@[simp] theorem State.actError_ring (s : State) : (s.actError).ring = s.ring := rfl
@[simp] theorem State.actError_handoff (s : State) : (s.actError).handoff = s.handoff := rfl
@[simp] theorem State.actError_fatal (s : State) : (s.actError).fatal = s.fatal := rfl
@[simp] theorem State.actError_fatalCause (s : State) : (s.actError).fatalCause = s.fatalCause := rfl
@[simp] theorem State.actError_rd (s : State) : (s.actError).rd = s.rd := rfl
@[simp] theorem State.actError_rdRelease (s : State) : (s.actError).rdRelease = s.rdRelease := rfl
@[simp] theorem State.actError_raw (s : State) : (s.actError).raw = s.raw := rfl
@[simp] theorem State.actError_rawlen (s : State) : (s.actError).rawlen = s.rawlen := rfl
@[simp] theorem State.actError_oversize (s : State) : (s.actError).oversize = s.oversize := rfl
@[simp] theorem State.actError_hcmd (s : State) : (s.actError).hcmd = s.hcmd := rfl
@[simp] theorem State.actError_hdst (s : State) : (s.actError).hdst = s.hdst := rfl
@[simp] theorem State.actError_horg (s : State) : (s.actError).horg = s.horg := rfl
@[simp] theorem State.actError_hnw (s : State) : (s.actError).hnw = s.hnw := rfl
@[simp] theorem State.actError_pw (s : State) : (s.actError).pw = s.pw := rfl
@[simp] theorem State.actError_activePort (s : State) : (s.actError).activePort = s.activePort := rfl
@[simp] theorem State.actError_sel (s : State) : (s.actError).sel = s.sel := rfl
@[simp] theorem State.actError_readOutstanding (s : State) : (s.actError).readOutstanding = s.readOutstanding := rfl
@[simp] theorem State.actError_readAddr (s : State) : (s.actError).readAddr = s.readAddr := rfl
@[simp] theorem State.actError_readUnit (s : State) : (s.actError).readUnit = s.readUnit := rfl
@[simp] theorem State.actError_out (s : State) : (s.actError).out = s.out := rfl
@[simp] theorem State.actError_idleOpportunity (s : State) : (s.actError).idleOpportunity = s.idleOpportunity := rfl
@[simp] theorem State.actError_srcPairs (s : State) : (s.actError).srcPairs = s.srcPairs := rfl
@[simp] theorem State.actError_srcOverrun (s : State) : (s.actError).srcOverrun = s.srcOverrun := rfl
@[simp] theorem State.actError_envLog (s : State) : (s.actError).envLog = s.envLog := rfl
@[simp] theorem State.actError_script (s : State) : (s.actError).script = s.script := rfl
@[simp] theorem State.actError_tick (s : State) : (s.actError).tick = s.tick := rfl
@[simp] theorem State.actError_input (s : State) : (s.actError).input = s.input := rfl

/-! ### `beginDecoderStep` -/

@[simp] theorem State.beginDecoderStep_cfg (s : State) : (s.beginDecoderStep).cfg = s.cfg := rfl
@[simp] theorem State.beginDecoderStep_table (s : State) : (s.beginDecoderStep).table = s.table := rfl
@[simp] theorem State.beginDecoderStep_ortab (s : State) : (s.beginDecoderStep).ortab = s.ortab := rfl
@[simp] theorem State.beginDecoderStep_tpl (s : State) : (s.beginDecoderStep).tpl = s.tpl := rfl
@[simp] theorem State.beginDecoderStep_dstate (s : State) : (s.beginDecoderStep).dstate = s.dstate := rfl
@[simp] theorem State.beginDecoderStep_acc (s : State) : (s.beginDecoderStep).acc = s.acc := rfl
@[simp] theorem State.beginDecoderStep_rxor (s : State) : (s.beginDecoderStep).rxor = s.rxor := rfl
@[simp] theorem State.beginDecoderStep_wr (s : State) : (s.beginDecoderStep).wr = s.wr := rfl
@[simp] theorem State.beginDecoderStep_pstart (s : State) : (s.beginDecoderStep).pstart = s.pstart := rfl
@[simp] theorem State.beginDecoderStep_rdSeen (s : State) :
    (s.beginDecoderStep).rdSeen = if s.drawAllowed s.input.rdSeenDraw then s.input.rdSeenDraw else s.rdSeen := rfl
@[simp] theorem State.beginDecoderStep_errPulse (s : State) : (s.beginDecoderStep).errPulse = false := rfl
@[simp] theorem State.beginDecoderStep_ring (s : State) : (s.beginDecoderStep).ring = s.ring := rfl
@[simp] theorem State.beginDecoderStep_handoff (s : State) : (s.beginDecoderStep).handoff = s.handoff := rfl
@[simp] theorem State.beginDecoderStep_fatal (s : State) : (s.beginDecoderStep).fatal = s.fatal := rfl
@[simp] theorem State.beginDecoderStep_fatalCause (s : State) : (s.beginDecoderStep).fatalCause = s.fatalCause := rfl
@[simp] theorem State.beginDecoderStep_rd (s : State) : (s.beginDecoderStep).rd = s.rd := rfl
@[simp] theorem State.beginDecoderStep_rdRelease (s : State) : (s.beginDecoderStep).rdRelease = s.rdRelease := rfl
@[simp] theorem State.beginDecoderStep_raw (s : State) : (s.beginDecoderStep).raw = s.raw := rfl
@[simp] theorem State.beginDecoderStep_rawlen (s : State) : (s.beginDecoderStep).rawlen = s.rawlen := rfl
@[simp] theorem State.beginDecoderStep_oversize (s : State) : (s.beginDecoderStep).oversize = s.oversize := rfl
@[simp] theorem State.beginDecoderStep_hcmd (s : State) : (s.beginDecoderStep).hcmd = s.hcmd := rfl
@[simp] theorem State.beginDecoderStep_hdst (s : State) : (s.beginDecoderStep).hdst = s.hdst := rfl
@[simp] theorem State.beginDecoderStep_horg (s : State) : (s.beginDecoderStep).horg = s.horg := rfl
@[simp] theorem State.beginDecoderStep_hnw (s : State) : (s.beginDecoderStep).hnw = s.hnw := rfl
@[simp] theorem State.beginDecoderStep_pw (s : State) : (s.beginDecoderStep).pw = s.pw := rfl
@[simp] theorem State.beginDecoderStep_activePort (s : State) : (s.beginDecoderStep).activePort = s.activePort := rfl
@[simp] theorem State.beginDecoderStep_sel (s : State) : (s.beginDecoderStep).sel = s.sel := rfl
@[simp] theorem State.beginDecoderStep_readOutstanding (s : State) :
    (s.beginDecoderStep).readOutstanding = s.readOutstanding := rfl
@[simp] theorem State.beginDecoderStep_readAddr (s : State) : (s.beginDecoderStep).readAddr = s.readAddr := rfl
@[simp] theorem State.beginDecoderStep_readUnit (s : State) : (s.beginDecoderStep).readUnit = s.readUnit := rfl
@[simp] theorem State.beginDecoderStep_out (s : State) : (s.beginDecoderStep).out = s.out := rfl
@[simp] theorem State.beginDecoderStep_idleOpportunity (s : State) :
    (s.beginDecoderStep).idleOpportunity = s.idleOpportunity := rfl
@[simp] theorem State.beginDecoderStep_srcPairs (s : State) : (s.beginDecoderStep).srcPairs = s.srcPairs := rfl
@[simp] theorem State.beginDecoderStep_srcOverrun (s : State) : (s.beginDecoderStep).srcOverrun = s.srcOverrun := rfl
@[simp] theorem State.beginDecoderStep_envLog (s : State) : (s.beginDecoderStep).envLog = s.envLog := rfl
@[simp] theorem State.beginDecoderStep_script (s : State) : (s.beginDecoderStep).script = s.script := rfl
@[simp] theorem State.beginDecoderStep_tick (s : State) : (s.beginDecoderStep).tick = s.tick := rfl
@[simp] theorem State.beginDecoderStep_input (s : State) : (s.beginDecoderStep).input = s.input := rfl

/-! ### `parsed` -/

@[simp] theorem State.parsed_cfg (s : State) (h : Word) (ws : List Word) : (s.parsed h ws).cfg = s.cfg := rfl
@[simp] theorem State.parsed_table (s : State) (h : Word) (ws : List Word) : (s.parsed h ws).table = s.table := rfl
@[simp] theorem State.parsed_ortab (s : State) (h : Word) (ws : List Word) : (s.parsed h ws).ortab = s.ortab := rfl
@[simp] theorem State.parsed_tpl (s : State) (h : Word) (ws : List Word) : (s.parsed h ws).tpl = s.tpl := rfl
@[simp] theorem State.parsed_dstate (s : State) (h : Word) (ws : List Word) : (s.parsed h ws).dstate = s.dstate := rfl
@[simp] theorem State.parsed_acc (s : State) (h : Word) (ws : List Word) : (s.parsed h ws).acc = s.acc := rfl
@[simp] theorem State.parsed_rxor (s : State) (h : Word) (ws : List Word) : (s.parsed h ws).rxor = s.rxor := rfl
@[simp] theorem State.parsed_wr (s : State) (h : Word) (ws : List Word) : (s.parsed h ws).wr = s.wr := rfl
@[simp] theorem State.parsed_pstart (s : State) (h : Word) (ws : List Word) : (s.parsed h ws).pstart = s.pstart := rfl
@[simp] theorem State.parsed_rdSeen (s : State) (h : Word) (ws : List Word) : (s.parsed h ws).rdSeen = s.rdSeen := rfl
@[simp] theorem State.parsed_errPulse (s : State) (h : Word) (ws : List Word) :
    (s.parsed h ws).errPulse = s.errPulse := rfl
@[simp] theorem State.parsed_ring (s : State) (h : Word) (ws : List Word) : (s.parsed h ws).ring = s.ring := rfl
@[simp] theorem State.parsed_handoff (s : State) (h : Word) (ws : List Word) :
    (s.parsed h ws).handoff = s.handoff := rfl
@[simp] theorem State.parsed_fatal (s : State) (h : Word) (ws : List Word) : (s.parsed h ws).fatal = s.fatal := rfl
@[simp] theorem State.parsed_fatalCause (s : State) (h : Word) (ws : List Word) :
    (s.parsed h ws).fatalCause = s.fatalCause := rfl
@[simp] theorem State.parsed_rd (s : State) (h : Word) (ws : List Word) : (s.parsed h ws).rd = s.rd := rfl
@[simp] theorem State.parsed_rdRelease (s : State) (h : Word) (ws : List Word) :
    (s.parsed h ws).rdRelease = s.rdRelease := rfl
@[simp] theorem State.parsed_raw (s : State) (h : Word) (ws : List Word) : (s.parsed h ws).raw = s.raw := rfl
@[simp] theorem State.parsed_rawlen (s : State) (h : Word) (ws : List Word) : (s.parsed h ws).rawlen = s.rawlen := rfl
@[simp] theorem State.parsed_oversize (s : State) (h : Word) (ws : List Word) :
    (s.parsed h ws).oversize = s.oversize := rfl
@[simp] theorem State.parsed_hcmd (s : State) (h : Word) (ws : List Word) : (s.parsed h ws).hcmd = hdrCommand h := rfl
@[simp] theorem State.parsed_hdst (s : State) (h : Word) (ws : List Word) :
    (s.parsed h ws).hdst = addrId s.cfg.portShift (hdrDest h) := rfl
@[simp] theorem State.parsed_horg (s : State) (h : Word) (ws : List Word) :
    (s.parsed h ws).horg = addrId s.cfg.portShift (hdrOrigin h) := rfl
@[simp] theorem State.parsed_hnw (s : State) (h : Word) (ws : List Word) : (s.parsed h ws).hnw = hdrCount h := rfl
@[simp] theorem State.parsed_pw (s : State) (h : Word) (ws : List Word) :
    (s.parsed h ws).pw = ws ++ s.pw.drop ws.length := rfl
@[simp] theorem State.parsed_activePort (s : State) (h : Word) (ws : List Word) :
    (s.parsed h ws).activePort = addrPort s.cfg.portShift (hdrOrigin h) := rfl
@[simp] theorem State.parsed_sel (s : State) (h : Word) (ws : List Word) : (s.parsed h ws).sel = s.sel := rfl
@[simp] theorem State.parsed_readOutstanding (s : State) (h : Word) (ws : List Word) :
    (s.parsed h ws).readOutstanding = s.readOutstanding := rfl
@[simp] theorem State.parsed_readAddr (s : State) (h : Word) (ws : List Word) :
    (s.parsed h ws).readAddr = s.readAddr := rfl
@[simp] theorem State.parsed_readUnit (s : State) (h : Word) (ws : List Word) :
    (s.parsed h ws).readUnit = s.readUnit := rfl
@[simp] theorem State.parsed_out (s : State) (h : Word) (ws : List Word) : (s.parsed h ws).out = s.out := rfl
@[simp] theorem State.parsed_idleOpportunity (s : State) (h : Word) (ws : List Word) :
    (s.parsed h ws).idleOpportunity = s.idleOpportunity := rfl
@[simp] theorem State.parsed_srcPairs (s : State) (h : Word) (ws : List Word) :
    (s.parsed h ws).srcPairs = s.srcPairs := rfl
@[simp] theorem State.parsed_srcOverrun (s : State) (h : Word) (ws : List Word) :
    (s.parsed h ws).srcOverrun = s.srcOverrun := rfl
@[simp] theorem State.parsed_envLog (s : State) (h : Word) (ws : List Word) : (s.parsed h ws).envLog = s.envLog := rfl
@[simp] theorem State.parsed_script (s : State) (h : Word) (ws : List Word) : (s.parsed h ws).script = s.script := rfl
@[simp] theorem State.parsed_tick (s : State) (h : Word) (ws : List Word) : (s.parsed h ws).tick = s.tick := rfl
@[simp] theorem State.parsed_input (s : State) (h : Word) (ws : List Word) : (s.parsed h ws).input = s.input := rfl

/-! ### `afterRst` -/

@[simp] theorem State.afterRst_cfg (s : State) : s.afterRst.cfg = s.cfg := rfl
@[simp] theorem State.afterRst_table (s : State) : s.afterRst.table = s.table := rfl
@[simp] theorem State.afterRst_ortab (s : State) : s.afterRst.ortab = s.ortab := rfl
@[simp] theorem State.afterRst_tpl (s : State) : s.afterRst.tpl = s.tpl := rfl
@[simp] theorem State.afterRst_dstate (s : State) : s.afterRst.dstate = State.reset.dstate := rfl
@[simp] theorem State.afterRst_acc (s : State) : s.afterRst.acc = State.reset.acc := rfl
@[simp] theorem State.afterRst_rxor (s : State) : s.afterRst.rxor = State.reset.rxor := rfl
@[simp] theorem State.afterRst_wr (s : State) : s.afterRst.wr = State.reset.wr := rfl
@[simp] theorem State.afterRst_pstart (s : State) : s.afterRst.pstart = State.reset.pstart := rfl
@[simp] theorem State.afterRst_rdSeen (s : State) : s.afterRst.rdSeen = State.reset.rdSeen := rfl
@[simp] theorem State.afterRst_errPulse (s : State) : s.afterRst.errPulse = State.reset.errPulse := rfl
@[simp] theorem State.afterRst_ring (s : State) : s.afterRst.ring = State.reset.ring := rfl
@[simp] theorem State.afterRst_handoff (s : State) : s.afterRst.handoff = State.reset.handoff := rfl
@[simp] theorem State.afterRst_fatal (s : State) : s.afterRst.fatal = State.reset.fatal := rfl
@[simp] theorem State.afterRst_fatalCause (s : State) : s.afterRst.fatalCause = State.reset.fatalCause := rfl
@[simp] theorem State.afterRst_rd (s : State) : s.afterRst.rd = State.reset.rd := rfl
@[simp] theorem State.afterRst_rdRelease (s : State) : s.afterRst.rdRelease = State.reset.rdRelease := rfl
@[simp] theorem State.afterRst_raw (s : State) : s.afterRst.raw = State.reset.raw := rfl
@[simp] theorem State.afterRst_rawlen (s : State) : s.afterRst.rawlen = State.reset.rawlen := rfl
@[simp] theorem State.afterRst_oversize (s : State) : s.afterRst.oversize = State.reset.oversize := rfl
@[simp] theorem State.afterRst_hcmd (s : State) : s.afterRst.hcmd = State.reset.hcmd := rfl
@[simp] theorem State.afterRst_hdst (s : State) : s.afterRst.hdst = State.reset.hdst := rfl
@[simp] theorem State.afterRst_horg (s : State) : s.afterRst.horg = State.reset.horg := rfl
@[simp] theorem State.afterRst_hnw (s : State) : s.afterRst.hnw = State.reset.hnw := rfl
@[simp] theorem State.afterRst_pw (s : State) : s.afterRst.pw = State.reset.pw := rfl
@[simp] theorem State.afterRst_activePort (s : State) : s.afterRst.activePort = State.reset.activePort := rfl
@[simp] theorem State.afterRst_sel (s : State) : s.afterRst.sel = State.reset.sel := rfl
@[simp] theorem State.afterRst_readOutstanding (s : State) : s.afterRst.readOutstanding = State.reset.readOutstanding := rfl
@[simp] theorem State.afterRst_readAddr (s : State) : s.afterRst.readAddr = State.reset.readAddr := rfl
@[simp] theorem State.afterRst_readUnit (s : State) : s.afterRst.readUnit = State.reset.readUnit := rfl
@[simp] theorem State.afterRst_out (s : State) : s.afterRst.out = State.reset.out := rfl
@[simp] theorem State.afterRst_idleOpportunity (s : State) : s.afterRst.idleOpportunity = State.reset.idleOpportunity := rfl
@[simp] theorem State.afterRst_srcPairs (s : State) : s.afterRst.srcPairs = if s.input.sourceCleared then [] else s.srcPairs := rfl
@[simp] theorem State.afterRst_srcOverrun (s : State) : s.afterRst.srcOverrun = (s.srcOverrun && !s.input.sourceCleared) := rfl
@[simp] theorem State.afterRst_envLog (s : State) : s.afterRst.envLog = s.envLog := rfl
@[simp] theorem State.afterRst_script (s : State) : s.afterRst.script = s.script := rfl
@[simp] theorem State.afterRst_tick (s : State) : s.afterRst.tick = s.tick := rfl

end Sys2Proof.Machine
end

