-- ==== Sys2Proof/Laws/Ops.lean ====
section
/-! SUPPORT. One lemma for each shared operation that says once what it can do. -/

namespace Sys2Proof.Machine

/-! ### Outcomes -/

@[simp] theorem whenLive_of_live {s : State} (h : s.fatal = false) (r : Result) : whenLive s r = r := by
  simp [whenLive, h]

theorem whenLive_next {s t : State} {r : Result} : whenLive s r = .next t ↔ s.fatal = false ∧ r = .next t := by
  unfold whenLive
  cases s.fatal <;> simp

@[simp] theorem andThen_of_next (t : State) (f : State → Result) : andThen (.next t) f = f t := rfl

theorem andThen_next {r : Result} {f : State → Result} {t : State} :
    andThen r f = .next t ↔ ∃ u, r = .next u ∧ f u = .next t := by
  cases r <;> simp [andThen]

@[simp] theorem recognized_true (s : State) (r : Result) : recognized true s r = r := rfl
@[simp] theorem recognized_false (s : State) (r : Result) : recognized false s r = .next s := rfl
@[simp] theorem withPhase_true (s : State) (r : Result) : withPhase true s r = r := rfl
@[simp] theorem withPhase_false (s : State) (r : Result) : withPhase false s r = .next s := rfl

/-- A request meaning answers next in one of two ways: the request is dropped, or its effect happens. -/
theorem recognized_next {ok : Bool} {s t : State} {r : Result} :
    recognized ok s r = .next t ↔ (ok = false ∧ t = s) ∨ (ok = true ∧ r = .next t) := by
  cases ok <;> simp [eq_comm]

theorem withPhase_next {ok : Bool} {s t : State} {r : Result} :
    withPhase ok s r = .next t ↔ (ok = false ∧ t = s) ∨ (ok = true ∧ r = .next t) := by
  cases ok <;> simp [eq_comm]

/-! ### Fatals -/

theorem State.raiseFatal_of_live {s : State} (h : s.fatal = false) (code : BitVec 3) :
    s.raiseFatal code = { s with fatal := true, fatalCause := code } := by
  simp [State.raiseFatal, h]

@[simp] theorem State.unlessFatal_of_live {s : State} (h : s.fatal = false) (f : State → State) :
    s.unlessFatal f = f s := by simp [State.unlessFatal, h]

@[simp] theorem State.unlessFatal_of_halted {s : State} (h : s.fatal = true) (f : State → State) :
    s.unlessFatal f = s := by simp [State.unlessFatal, h]

@[simp] theorem State.perform_false (s : State) (f : State → State) : s.perform false f = s := rfl

@[simp] theorem State.perform_true (s : State) (f : State → State) : s.perform true f = s.unlessFatal f := rfl

/-! ### Decode actions -/

/-- `ACT.PUSH`: a lapped ring is a fatal and nothing else; otherwise one byte is stored. -/
theorem State.actPush_cases (s : State) (nxt : Byte) :
    (s.cfg.ringSize ≤ cursorSub s.cfg.cursorW s.wr s.rdSeen ∧ s.actPush nxt = s.raiseFatal causeRingOverrun) ∨
    (cursorSub s.cfg.cursorW s.wr s.rdSeen < s.cfg.ringSize ∧
      s.actPush nxt =
        { s with
          ring := Memory.write s.ring (s.ringIndex s.wr) s.acc
          rxor := s.rxor ^^^ s.acc
          acc := nxt
          wr := cursorAdd s.cfg.cursorW s.wr 1 }) := by
  by_cases h : s.cfg.ringSize ≤ cursorSub s.cfg.cursorW s.wr s.rdSeen
  · exact Or.inl ⟨h, if_pos (decide_eq_true h)⟩
  · exact Or.inr ⟨by omega, if_neg (Bool.not_eq_true _ ▸ decide_eq_false h)⟩

/-- `ACT.END`: a bad checksum changes nothing, a full handoff is a fatal and nothing else, otherwise the packet is
published. -/
theorem State.actEnd_cases (s : State) :
    (s.rxor ≠ 0 ∧ s.actEnd = s) ∨
    (s.rxor = 0 ∧ s.handoff.length = s.cfg.handoffDepth ∧ s.actEnd = s.raiseFatal causeHandoffOverflow) ∨
    (s.rxor = 0 ∧ s.handoff.length ≠ s.cfg.handoffDepth ∧
      s.actEnd = { s with handoff := s.handoff ++ [s.wr], pstart := alignUp s.cfg.cursorW s.wr s.cfg.startAlign }) := by
  unfold State.actEnd
  by_cases hx : s.rxor = 0
  · rw [if_pos (show s.checksumGood = true from beq_iff_eq.mpr hx)]
    by_cases hf : s.handoff.length = s.cfg.handoffDepth
    · exact Or.inr (Or.inl ⟨hx, hf, if_pos (beq_iff_eq.mpr hf)⟩)
    · exact Or.inr (Or.inr ⟨hx, hf, if_neg fun e => hf (beq_iff_eq.mp e)⟩)
  · exact Or.inl ⟨hx, if_neg fun e => hx (beq_iff_eq.mp e)⟩

/-- The overrun check raises `SAMPLE_OVERRUN` exactly when the sample source lost a transition. -/
theorem State.overrunCheck_cases (s : State) :
    (s.srcOverrun = false ∧ s.overrunCheck = s) ∨
    (s.srcOverrun = true ∧ s.overrunCheck = s.raiseFatal causeSampleOverrun) := by
  unfold State.overrunCheck
  cases s.srcOverrun <;> simp

/-- `SAMPLE` answers next exactly when the block is live and the table has a legal entry with its OR row. -/
theorem execSample_next {b : Byte} {s t : State} :
    execSample b s = .next t ↔
      s.fatal = false ∧ ∃ e row, s.tableEntry b = some e ∧ entryLegal s.cfg e = true ∧ s.orRow e.oridx = some row ∧
        t = s.beginDecoderStep.decStep e row := by
  unfold execSample
  rw [whenLive_next]
  constructor
  · rintro ⟨hf, h⟩
    split at h
    · cases h
    · next e he =>
      split at h
      · next hl =>
        split at h
        · cases h
        · next row hr => exact ⟨hf, e, row, he, hl, hr, by cases h; rfl⟩
      · cases h
  · rintro ⟨hf, e, row, he, hl, hr, rfl⟩
    refine ⟨hf, ?_⟩
    simp [he, hl, hr]

/-! ### Copy-out and validator -/

theorem State.copyOut_short {s : State} {endOff : Nat} (rest : List Nat)
    (h : cursorSub s.cfg.cursorW endOff s.rd ≤ Config.pktMaxBytes) :
    s.copyOut endOff rest =
      { s with
        handoff := rest
        raw := Memory.writeRun s.raw 0 (s.ringRun s.rd (cursorSub s.cfg.cursorW endOff s.rd))
        rawlen := BitVec.ofNat 11 (cursorSub s.cfg.cursorW endOff s.rd)
        oversize := false
        rd := alignUp s.cfg.cursorW endOff s.cfg.startAlign
        rdRelease := alignUp s.cfg.cursorW endOff s.cfg.startAlign } := by
  exact if_pos h

theorem State.copyOut_long {s : State} {endOff : Nat} (rest : List Nat)
    (h : Config.pktMaxBytes < cursorSub s.cfg.cursorW endOff s.rd) :
    s.copyOut endOff rest =
      { s with
        handoff := rest
        rawlen := 0
        oversize := true
        rd := alignUp s.cfg.cursorW endOff s.cfg.startAlign
        rdRelease := alignUp s.cfg.cursorW endOff s.cfg.startAlign } := by
  exact if_neg (Nat.not_le.mpr h)

theorem bytesToWords_length (bs : List Byte) : (bytesToWords bs).length = bs.length / 4 := by
  fun_induction bytesToWords bs with
  | case1 b0 b1 b2 b3 rest ih => simp only [List.length_cons, ih]; omega
  | case2 bs h =>
    match bs, h with
    | [], _ => simp
    | [_], _ => simp
    | [_, _], _ => simp
    | [_, _, _], _ => simp
    | b0 :: b1 :: b2 :: b3 :: rest, h => exact absurd rfl (h b0 b1 b2 b3 rest)

/-- A packet passes both length tests exactly when its length is that of its header's count. -/
theorem packetWords_some {raw : List Byte} {h : Word} {ws : List Word} :
    packetWords raw = some (h :: ws) ↔
      raw.length % 4 = 1 ∧ bytesToWords raw = h :: ws ∧ raw.length - 1 = ((hdrCount h).toNat + 1) * 4 := by
  unfold packetWords
  split
  · simp_all
  · next hm =>
    split
    · simp_all
    · next h' ws' he =>
      split
      · next hl =>
        simp only [Option.some.injEq, List.cons.injEq, he]
        constructor
        · rintro ⟨rfl, rfl⟩; exact ⟨by omega, ⟨rfl, rfl⟩, hl⟩
        · rintro ⟨_, ⟨rfl, rfl⟩, _⟩; exact ⟨rfl, rfl⟩
      · next hl =>
        simp only [he, List.cons.injEq]
        constructor
        · intro h; cases h
        · rintro ⟨_, ⟨rfl, rfl⟩, h⟩; exact absurd h hl

/-- A packet that passes has as many payload words as its header says. -/
theorem packetWords_count {raw : List Byte} {h : Word} {ws : List Word} (hp : packetWords raw = some (h :: ws)) :
    ws.length = (hdrCount h).toNat := by
  obtain ⟨hm, hb, hl⟩ := packetWords_some.mp hp
  have := bytesToWords_length raw
  rw [hb] at this
  simp only [List.length_cons] at this
  omega

/-- `VAL` hands a packet on exactly when it is not oversize and passes both length tests. -/
theorem State.validate_some {s t : State} :
    s.validate = some t ↔
      s.oversize = false ∧ ∃ h ws, packetWords s.rawBytes = some (h :: ws) ∧ t = s.parsed h ws := by
  unfold State.validate
  cases s.oversize with
  | true => simp
  | false =>
    simp only [Bool.false_eq_true, if_false, true_and]
    split
    · next h ws he =>
      constructor
      · rintro ⟨⟩; exact ⟨h, ws, he, rfl⟩
      · rintro ⟨h', ws', he', rfl⟩
        rw [he] at he'
        cases he'
        rfl
    · next hne =>
      constructor
      · intro h; cases h
      · rintro ⟨h, ws, he, rfl⟩; exact absurd he (hne h ws)

/-! ### Requests and responses -/

/-- A block read records its address and unit, or raises `READ_OUTSTANDING` and changes nothing else. -/
theorem State.beginRead_cases (s : State) (a : Word) (u : ReadUnit) (x : BitVec 4) :
    (s.readOutstanding = true ∧ s.beginRead a u x = s.raiseFatal causeReadOutstanding) ∨
    (s.readOutstanding = false ∧
      s.beginRead a u x = { s with readOutstanding := true, readAddr := a, readUnit := u, sel := x }) := by
  unfold State.beginRead
  cases s.readOutstanding <;> simp

/-- A busy transmitter: the flag is read and nothing else happens. -/
theorem trySend_busy {s : State} (h : s.input.txBusy = true) (x : BitVec 4) :
    trySend x s = .next (s.request .txBusy) := by simp [trySend, h]

/-- A free transmitter gets the image built from the selector's template. -/
theorem trySend_free {s : State} {x : BitVec 4} {img : List Word} (h : s.input.txBusy = false)
    (hi : s.image x = some img) (hf : imageFits s.cfg x img = true) :
    trySend x s =
      .next ((((s.request .txBusy).muxBuild x img).request (.txStart ((s.request .txBusy).muxBuild x img).out)).accept x) := by
  simp [trySend, h, hi, hf]

/-- What `SCHED.TRY` can answer for a pending selector: the busy case, the sent image, or the refusal of an unbuilt
template. -/
theorem trySend_next {s t : State} {x : BitVec 4} (h : trySend x s = .next t) :
    t = s.request .txBusy ∨
    ∃ img, s.image x = some img ∧ imageFits s.cfg x img = true ∧
      t = (((s.request .txBusy).muxBuild x img).request (.txStart ((s.request .txBusy).muxBuild x img).out)).accept x := by
  unfold trySend at h
  simp only at h
  split at h
  · exact Or.inl (by cases h; rfl)
  · split at h
    · cases h
    · next img hi =>
      split at h
      · next hf => exact Or.inr ⟨img, hi, hf, by cases h; rfl⟩
      · cases h

/-! ### Turns -/

/-- Every step that answers next: the state was admissible, and it is the reset, the frozen block, or an agent's turn. -/
theorem step_next {s t : State} (h : step s = .next t) :
    s.inadmissible = none ∧
      ((s.input.rst = true ∧ t = s.intake.afterRst.advance) ∨
       (s.input.rst = false ∧ s.fatal = true ∧ t = s.intake.advance) ∨
       (s.input.rst = false ∧ s.fatal = false ∧ s.input.agent = .capture ∧
          ∃ u, captureTurn s.intake = .next u ∧ t = u.advance) ∨
       (s.input.rst = false ∧ s.fatal = false ∧ s.input.agent = .dispatch ∧
          ∃ u, dispatchTurn s.intake = .next u ∧ t = u.advance)) := by
  unfold step turn at h
  split at h
  · cases h
  · next ha =>
    refine ⟨ha, ?_⟩
    have hin : s.intake.input = s.input := rfl
    have hfe : s.intake.fatal = s.fatal := rfl
    simp only at h
    split at h
    · next hr => exact Or.inl ⟨hin ▸ hr, by cases h; rfl⟩
    · next hr =>
      have hr : s.input.rst = false := hin ▸ (by simpa using hr)
      obtain ⟨u, hu, ht⟩ := andThen_next.mp h
      have ht : t = u.advance := by cases ht; rfl
      unfold agentTurn at hu
      split at hu
      · next hf => exact Or.inr (Or.inl ⟨hr, hfe ▸ hf, by cases hu; exact ht⟩)
      · next hf =>
        have hf : s.fatal = false := hfe ▸ (by simpa using hf)
        split at hu
        · next hg => exact Or.inr (Or.inr (Or.inl ⟨hr, hf, hin ▸ hg, u, hu, ht⟩))
        · next hg => exact Or.inr (Or.inr (Or.inr ⟨hr, hf, hin ▸ hg, u, hu, ht⟩))

/-- A turn of the capture agent: it waits for four transitions, or runs the sample byte they make. -/
theorem captureTurn_next {s t : State} (h : captureTurn s = .next t) :
    (s.srcPairs.length < 4 ∧ t = s) ∨
    ∃ p0 p1 p2 p3 rest, s.srcPairs = p0 :: p1 :: p2 :: p3 :: rest ∧
      execSample (packSample s.cfg.pairOrder p0 p1 p2 p3) { s with srcPairs := rest } = .next t := by
  unfold captureTurn at h
  split at h
  · next hn =>
    refine Or.inl ⟨?_, by cases h; rfl⟩
    unfold State.takeSample at hn
    split at hn
    · cases hn
    · next hne =>
      rcases hs : s.srcPairs with _ | ⟨p0, _ | ⟨p1, _ | ⟨p2, _ | ⟨p3, rest⟩⟩⟩⟩ <;> simp
      exact (hne p0 p1 p2 p3 rest hs).elim
  · next b u hn =>
    right
    unfold State.takeSample at hn
    split at hn
    · next p0 p1 p2 p3 rest hs => cases hn; exact ⟨p0, p1, p2, p3, rest, hs, h⟩
    · cases hn

/-- A turn of the dispatch agent: nothing before the templates are built, `DISPATCH.STEP` after. -/
theorem dispatchTurn_next {s t : State} (h : dispatchTurn s = .next t) :
    (s.templatesBuilt = false ∧ t = s) ∨ (s.templatesBuilt = true ∧ dispatchStep s = .next t) := by
  unfold dispatchTurn at h
  split at h
  · next hb => exact Or.inr ⟨hb, h⟩
  · next hb => exact Or.inl ⟨by simpa using hb, by cases h; rfl⟩

/-- `DISPATCH.STEP`: the packet part where a packet is published, then the scheduler, then the idle output. -/
theorem dispatchStep_next {s t : State} (h : dispatchStep s = .next t) :
    (s.handoff = [] ∧ ∃ u, schedTry s = .next u ∧ t = u.reportIdle true) ∨
    ∃ endOff rest u v, s.handoff = endOff :: rest ∧ packetPart s endOff rest = .next u ∧ schedTry u = .next v ∧
      t = v.reportIdle false := by
  unfold dispatchStep at h
  split at h
  · next hh =>
    obtain ⟨u, hu, ht⟩ := andThen_next.mp h
    exact Or.inl ⟨hh, u, hu, by cases ht; rfl⟩
  · next endOff rest hh =>
    obtain ⟨u, hu, h⟩ := andThen_next.mp h
    obtain ⟨v, hv, ht⟩ := andThen_next.mp h
    exact Or.inr ⟨endOff, rest, u, v, hh, hu, hv, by cases ht; rfl⟩

/-- The packet part: a packet that fails the length tests is only consumed; any other runs its request. -/
theorem packetPart_next {s t : State} {endOff : Nat} {rest : List Nat} (h : packetPart s endOff rest = .next t) :
    ((s.copyOut endOff rest).validate = none ∧ t = s.copyOut endOff rest) ∨
    ∃ u, (s.copyOut endOff rest).validate = some u ∧ exec u.pendingRequest u = .next t := by
  unfold packetPart at h
  simp only at h
  split at h
  · next hv => exact Or.inl ⟨hv, by cases h; rfl⟩
  · next u hv => exact Or.inr ⟨u, hv, h⟩

/-- The scheduler does nothing after a fatal; otherwise it runs the operation of the pending selector. -/
theorem schedTry_next {s t : State} (h : schedTry s = .next t) :
    (s.fatal = true ∧ t = s) ∨ (s.fatal = false ∧ ∃ i, decodeSel s.cfg s.sel = some i ∧ exec i s = .next t) := by
  unfold schedTry at h
  split at h
  · next hf => exact Or.inl ⟨hf, by cases h; rfl⟩
  · next hf =>
    split at h
    · cases h
    · next i hi => exact Or.inr ⟨by simpa using hf, i, hi, h⟩

end Sys2Proof.Machine
end

