-- ==== Sys2Proof/Laws/Dispatch.lean ====
section
/-! SUPPORT. What the operations of the dispatch agent and the decoder step can do to the state, said once for all of
them. -/

namespace Sys2Proof.Machine

/-! ### The operations of the dispatch agent -/

/-- The next states of a request or selector operation: nothing; a selection; a request on the environment and a selection;
the begin of a block read; a look at the busy flag; a response sent. -/
inductive DispatchEffect (s : State) : State → Prop
  | nothing : DispatchEffect s s
  | selects (x : BitVec 4) (hx : x.toNat < 13) (h6 : x ≠ selMcBlockdata) (h11 : x ≠ selVibAstdata) :
    DispatchEffect s (s.select x)
  | hands (r : EnvRequest) (x : BitVec 4) (hx : x.toNat < 13) (h6 : x ≠ selMcBlockdata) (h11 : x ≠ selVibAstdata) :
    DispatchEffect s ((s.request r).select x)
  | readsCard (a : Word) : DispatchEffect s (s.beginRead a .memoryCard selMcBlockdata)
  | readsVib (a : Word) : DispatchEffect s (s.beginRead a .vibrationPack selVibAstdata)
  | waits : DispatchEffect s (s.request .txBusy)
  | sends (x : BitVec 4) (img : List Word) (hi : s.image x = some img) (hf : imageFits s.cfg x img = true) :
    DispatchEffect s
      ((((s.request .txBusy).muxBuild x img).request (.txStart ((s.request .txBusy).muxBuild x img).out)).accept x)

theorem trySend_effect {s t : State} {x : BitVec 4} (h : trySend x s = .next t) : DispatchEffect s t := by
  rcases trySend_next h with rfl | ⟨img, hi, hf, rfl⟩
  · exact .waits
  · exact .sends x img hi hf

theorem answer_effect {s t : State} {x : BitVec 4} (hx : x.toNat < 13) (h6 : x ≠ selMcBlockdata)
    (h11 : x ≠ selVibAstdata) (h : answer x s = .next t) : DispatchEffect s t := by
  cases h; exact .selects x hx h6 h11

theorem hand_effect {s t : State} {r : EnvRequest} {x : BitVec 4} (hx : x.toNat < 13) (h6 : x ≠ selMcBlockdata)
    (h11 : x ≠ selVibAstdata) (h : hand r x s = .next t) : DispatchEffect s t := by
  cases h; exact .hands r x hx h6 h11

theorem recognized_effect {ok : Bool} {s t : State} {r : Result} (h : recognized ok s r = .next t)
    (hr : r = .next t → DispatchEffect s t) : DispatchEffect s t := by
  rcases recognized_next.mp h with ⟨_, rfl⟩ | ⟨_, h⟩
  · exact .nothing
  · exact hr h

theorem withPhase_effect {ok : Bool} {s t : State} {r : Result} (h : withPhase ok s r = .next t)
    (hr : r = .next t → DispatchEffect s t) : DispatchEffect s t := by
  rcases withPhase_next.mp h with ⟨_, rfl⟩ | ⟨_, h⟩
  · exact .nothing
  · exact hr h

/-- Every operation of the dispatch agent runs only in a live block and has one of the effects above. -/
theorem exec_dispatchEffect {i : Instr} (hi : i.ofCapture = false) {s t : State} (h : exec i s = .next t) :
    s.fatal = false ∧ DispatchEffect s t := by
  have live : ∀ {r : Result}, whenLive s r = .next t → s.fatal = false := fun h => (whenLive_next.mp h).1
  have body : ∀ {r : Result}, whenLive s r = .next t → r = .next t := fun h => (whenLive_next.mp h).2
  cases i with
  | sample | actNext | actReset | actOr | actPush | actEnd | actError => cases hi
  | rdiCtrl | rdiMc | rdiVib | getcondVib | getmediaVib =>
    exact ⟨live h, answer_effect (by decide) (by decide) (by decide) (body h)⟩
  | getcondCtrl | getmediaMc | getmediaLcd =>
    exact ⟨live h, recognized_effect (body h) (answer_effect (by decide) (by decide) (by decide))⟩
  | bwriteLcd | setcondVib =>
    exact ⟨live h, recognized_effect (body h) (hand_effect (by decide) (by decide) (by decide))⟩
  | bwriteMc | bwriteVib | bcompleteMc =>
    exact ⟨live h, recognized_effect (body h) fun h =>
      withPhase_effect h (hand_effect (by decide) (by decide) (by decide))⟩
  | breadMc q =>
    exact ⟨live h, recognized_effect (body h) fun h => withPhase_effect h fun h => by cases h; exact .readsCard _⟩
  | breadVib q =>
    exact ⟨live h, recognized_effect (body h) fun h => withPhase_effect h fun h => by cases h; exact .readsVib _⟩
  | notOurs | unrec | badPhase | selNothing => exact ⟨live h, by cases body h; exact .nothing⟩
  | selCtrlDevinfo | selCtrlStatus | selMcDevinfo | selMcMediainfo | selLcdMediainfo | selMcBlockdata | selMcAck
  | selVibDevinfo | selVibMediainfo | selVibCondition | selVibAstdata | selVibAck =>
    exact ⟨live h, trySend_effect (body h)⟩

/-- The matcher only finds operations of the dispatch agent. -/
theorem matchRequest_ofCapture (c : Config.Codes) (q : Req) (dst cmd : Byte) :
    (matchRequest c q dst cmd).ofCapture = false := by
  unfold matchRequest matchCtrl matchMc matchVib phaseGate
  simp only
  (repeat' split) <;> rfl

theorem State.pendingRequest_ofCapture (s : State) : s.pendingRequest.ofCapture = false := matchRequest_ofCapture _ _ _ _

/-- A selector value has an operation exactly if it is below `NUM_SEL` and not reserved. -/
theorem decodeSel_isSome {p : Config.Params} {x : BitVec 4} :
    (decodeSel p x).isSome = true ↔ x.toNat < p.numSel ∧ x.toNat < selValues := by
  have h : ∀ y : BitVec 4, (selOperation y).isSome = decide (y.toNat < selValues) := by decide
  unfold decodeSel
  split <;> simp_all

theorem decodeSel_ofCapture {p : Config.Params} {x : BitVec 4} {i : Instr} (h : decodeSel p x = some i) :
    i.ofCapture = false := by
  unfold decodeSel selOperation at h
  split at h
  · split at h <;> cases h <;> rfl
  · cases h

/-- What no operation of the dispatch agent changes: the constants, the capture agent's part, the handoff, the cursors and
the copied packet. -/
structure DispatchFrame (s t : State) : Prop where
  constants : SameConstants s t
  capture : SameCapture s t
  source : SameSource s t
  handoff : t.handoff = s.handoff
  rd : t.rd = s.rd
  rdRelease : t.rdRelease = s.rdRelease
  raw : t.raw = s.raw
  rawlen : t.rawlen = s.rawlen
  pw : t.pw = s.pw
  hdst : t.hdst = s.hdst
  horg : t.horg = s.horg
  activePort : t.activePort = s.activePort

/-- Two states that agree outside the dispatch registers an operation may write. -/
theorem DispatchFrame.of_eq {s t : State}
    (h : t = { s with fatal := t.fatal, fatalCause := t.fatalCause, sel := t.sel, readOutstanding := t.readOutstanding
                      readAddr := t.readAddr, readUnit := t.readUnit, out := t.out, envLog := t.envLog }) :
    DispatchFrame s t := by
  rw [h]
  exact ⟨⟨rfl, rfl, rfl, rfl⟩, ⟨rfl, rfl, rfl, rfl, rfl, rfl, rfl, rfl⟩, ⟨rfl, rfl, rfl, rfl⟩, rfl, rfl, rfl, rfl, rfl, rfl,
    rfl, rfl, rfl⟩

theorem DispatchEffect.frame {s t : State} (h : DispatchEffect s t) : DispatchFrame s t := by
  cases h with
  | nothing | selects | hands | waits => exact .of_eq rfl
  | readsCard a =>
    rcases s.beginRead_cases a .memoryCard selMcBlockdata with ⟨_, h⟩ | ⟨_, h⟩ <;> rw [h] <;> exact .of_eq rfl
  | readsVib a =>
    rcases s.beginRead_cases a .vibrationPack selVibAstdata with ⟨_, h⟩ | ⟨_, h⟩ <;> rw [h] <;> exact .of_eq rfl
  | sends x img =>
    refine .of_eq ?_
    unfold State.muxBuild
    generalize (s.request .txBusy).dynRequest x = r
    generalize muxImage x (s.request .txBusy) img = o
    cases r <;> rfl

/-! ### The decoder step -/

/-- What a decoder step never changes: the constants, the dispatch agent's part and the sample source. -/
structure CaptureFrame (s t : State) : Prop where
  constants : SameConstants s t
  dispatch : SameDispatch s t
  source : SameSource s t

/-- Two states that agree outside the capture registers. -/
theorem CaptureFrame.of_eq {s t : State}
    (h : t = { s with dstate := t.dstate, acc := t.acc, rxor := t.rxor, wr := t.wr, pstart := t.pstart
                      rdSeen := t.rdSeen, errPulse := t.errPulse, ring := t.ring, handoff := t.handoff
                      fatal := t.fatal, fatalCause := t.fatalCause }) :
    CaptureFrame s t := by
  rw [h]
  exact ⟨⟨rfl, rfl, rfl, rfl⟩, ⟨rfl, rfl, rfl, rfl, rfl, rfl, rfl, rfl, rfl, rfl, rfl, rfl, rfl, rfl, rfl, rfl, rfl, rfl⟩,
    ⟨rfl, rfl, rfl, rfl⟩⟩

/-- A property that every action of a decoder step keeps holds after the step: NEXT, RESET, OR, PUSH, END, ERROR, the
overrun check. -/
theorem State.decStep_keeps {P : State → Prop} {s : State} {e : Tte} {row : Byte × Byte} (h0 : P s)
    (next : ∀ u, P u → P (u.actNext e.next)) (reset : ∀ u, P u → P u.actReset) (or : ∀ u, P u → P (u.actOr row.1))
    (push : ∀ u, P u → P (u.actPush row.2)) (endPkt : ∀ u, P u → P u.actEnd) (error : ∀ u, P u → P u.actError)
    (overrun : ∀ u, P u → P u.overrunCheck) : P (s.decStep e row) := by
  have live : ∀ {f : State → State}, (∀ u, P u → P (f u)) → ∀ u, P u → P (u.unlessFatal f) := by
    intro f hf u hu
    unfold State.unlessFatal
    split
    · exact hu
    · exact hf u hu
  have perf : ∀ {f : State → State} (b : Bool), (∀ u, P u → P (f u)) → ∀ u, P u → P (u.perform b f) := by
    intro f b hf u hu
    cases b
    · exact hu
    · exact live hf u hu
  exact live overrun _ <| perf _ error _ <| perf _ endPkt _ <| perf _ push _ <| or _ <| perf _ reset _ <| next _ h0

end Sys2Proof.Machine
end

