-- ==== Sys2Proof/Laws/PerInstr.lean ====
section
/-! SUPPORT. Statements made for each operation on its own: the code of a well-formed operation fits its format. -/

namespace Sys2Proof.Laws.EncodeFits

open Sys2Proof.Machine

/-- The code fits its format: a table entry has `ENTRY_W` bits, is one the builder can have made and selects the action of its
place (00_scope R5, 30_encoding R97, R98); a raw packet has `4 (n + 1) + 1` bytes, at most 1025, with exclusive OR zero
(R100); a selector value is not reserved and below `NUM_SEL` (R113, 00_scope R5). -/
def CodeFits (p : Config.Params) : Code → Prop
  | .sample _ => True
  | .tte slot w => w < 2 ^ p.entryW ∧ entryLegal p (unpackTte p w) = true ∧ (unpackTte p w).selects slot = true
  | .packet raw => raw.length % 4 = 1 ∧ 5 ≤ raw.length ∧ raw.length ≤ Config.pktMaxBytes ∧ xorBytes raw = 0
  | .sel v => v.toNat < p.numSel ∧ v.toNat < selValues

/-- With parameters the model accepts, the code of a well-formed operation fits its format. -/
def Statement (i : Instr) : Prop :=
  ∀ p : Config.Params, paramsLegal p = true → builderRefuses p = none → wellFormed p i = true → CodeFits p (encode p i)

/-! ### Packets -/

theorem xorBytes_append (a b : List Byte) : xorBytes (a ++ b) = xorBytes a ^^^ xorBytes b := by
  induction a with
  | nil => simp [xorBytes]
  | cons x a ih => simp [xorBytes, ih, BitVec.xor_assoc]

theorem wordsBytes_length (ws : List Word) : (wordsBytes ws).length = 4 * ws.length := by
  induction ws with
  | nil => rfl
  | cons w ws ih =>
    have h : wordsBytes (w :: ws) = wordBytes w ++ wordsBytes ws := rfl
    simp only [h, List.length_append, ih, List.length_cons]
    simp [wordBytes]
    omega

/-- The raw packet of any header and at most 255 payload words fits. -/
theorem packet_fits {p : Config.Params} (q : Req) (dst cmd : Byte) (h : q.fits p = true) :
    CodeFits p (encodeReq p.portShift q dst cmd) := by
  have hl : q.payload.length ≤ 255 := of_decide_eq_true (Bool.and_eq_true_iff.mp h).1
  simp only [encodeReq, CodeFits, rawOfWords, List.length_append, wordsBytes_length, List.length_cons, List.length_nil]
  refine ⟨by omega, by omega, show _ ≤ 1025 by omega, ?_⟩
  rw [xorBytes_append]
  simp [xorBytes]

theorem meets_fits {p : Config.Params} {q : Req} {k : Nat} (h : q.meets p k = true) : q.fits p = true :=
  (Bool.and_eq_true_iff.mp h).1

/-! ### Table entries -/

/-- The code of an entry the builder can have made fits at every place it selects. -/
theorem entry_fits {p : Config.Params} {e : Tte} {slot : Slot} (hp : paramsLegal p = true) (hb : builderRefuses p = none)
    (hs : e.selects slot = true) (h : entryLegal p e = true) : CodeFits p (.tte slot (packTte p e)) := by
  obtain ⟨_, _, _, hw, hn, _⟩ := paramsLegal_iff.mp hp
  obtain ⟨he, ho, _⟩ := entryLegal_iff.mp h
  have he : e.next < 2 ^ p.stateW := Nat.lt_of_lt_of_le he hn
  refine ⟨packTte_lt hw he (Nat.lt_of_lt_of_le ho (orTable_length_le hb)), ?_⟩
  rw [unpack_pack he]
  exact ⟨h, hs⟩

/-! ### One lemma for each operation -/

theorem sample (b : Byte) : Statement (.sample b) := fun _ _ _ _ => trivial

theorem actNext (next : Nat) : Statement (.actNext next) := fun _ hp hb h => entry_fits hp hb rfl h

theorem actReset : Statement .actReset := fun _ hp hb h => entry_fits hp hb rfl h

theorem actOr (oridx : Nat) : Statement (.actOr oridx) := fun _ hp hb h => entry_fits hp hb rfl h

theorem actPush (oridx : Nat) : Statement (.actPush oridx) := fun _ hp hb h => entry_fits hp hb rfl h

theorem actEnd : Statement .actEnd := fun _ hp hb h => entry_fits hp hb rfl h

theorem actError : Statement .actError := fun _ hp hb h => entry_fits hp hb rfl h

theorem rdiCtrl (q : Req) : Statement (.rdiCtrl q) := fun _ _ _ h => packet_fits q _ _ (meets_fits (k := 0) h)

theorem rdiMc (q : Req) : Statement (.rdiMc q) := fun _ _ _ h => packet_fits q _ _ (meets_fits (k := 1) h)

theorem rdiVib (q : Req) : Statement (.rdiVib q) := fun _ _ _ h => packet_fits q _ _ (meets_fits (k := 2) h)

theorem getcondCtrl (q : Req) : Statement (.getcondCtrl q) := fun _ _ _ h => packet_fits q _ _ (meets_fits (k := 3) h)

theorem getcondVib (q : Req) : Statement (.getcondVib q) := fun _ _ _ h => packet_fits q _ _ (meets_fits (k := 4) h)

theorem getmediaMc (q : Req) : Statement (.getmediaMc q) := fun _ _ _ h => packet_fits q _ _ (meets_fits (k := 5) h)

theorem getmediaLcd (q : Req) : Statement (.getmediaLcd q) := fun _ _ _ h => packet_fits q _ _ (meets_fits (k := 6) h)

theorem getmediaVib (q : Req) : Statement (.getmediaVib q) := fun _ _ _ h => packet_fits q _ _ (meets_fits (k := 7) h)

theorem bwriteMc (q : Req) : Statement (.bwriteMc q) := fun _ _ _ h => packet_fits q _ _ (meets_fits (k := 8) h)

theorem bwriteLcd (q : Req) : Statement (.bwriteLcd q) := fun _ _ _ h => packet_fits q _ _ (meets_fits (k := 9) h)

theorem breadMc (q : Req) : Statement (.breadMc q) := fun _ _ _ h => packet_fits q _ _ (meets_fits (k := 10) h)

theorem breadVib (q : Req) : Statement (.breadVib q) := fun _ _ _ h => packet_fits q _ _ (meets_fits (k := 11) h)

theorem bwriteVib (q : Req) : Statement (.bwriteVib q) := fun _ _ _ h => packet_fits q _ _ (meets_fits (k := 12) h)

theorem bcompleteMc (q : Req) : Statement (.bcompleteMc q) := fun _ _ _ h => packet_fits q _ _ (meets_fits (k := 13) h)

theorem setcondVib (q : Req) : Statement (.setcondVib q) := fun _ _ _ h => packet_fits q _ _ (meets_fits (k := 14) h)

theorem notOurs (q : Req) (dst : Byte) (cmd : Byte) : Statement (.notOurs q dst cmd) :=
  fun _ _ _ h => packet_fits q dst cmd (by
  simp only [wellFormed, Bool.and_eq_true] at h; exact h.1.1)

theorem unrec (q : Req) (dst : Byte) (cmd : Byte) : Statement (.unrec q dst cmd) :=
  fun _ _ _ h => packet_fits q dst cmd (by
  simp only [wellFormed, Bool.and_eq_true] at h; exact h.1.1.1)

theorem badPhase (q : Req) (dst : Byte) (cmd : Byte) : Statement (.badPhase q dst cmd) :=
  fun _ _ _ h => packet_fits q dst cmd (by
  simp only [wellFormed, Bool.and_eq_true] at h; exact h.1.1)

theorem selNothing : Statement .selNothing := fun _ _ _ h => ⟨of_decide_eq_true h, by decide⟩

theorem selCtrlDevinfo : Statement .selCtrlDevinfo := fun _ _ _ h => ⟨of_decide_eq_true h, by decide⟩

theorem selCtrlStatus : Statement .selCtrlStatus := fun _ _ _ h => ⟨of_decide_eq_true h, by decide⟩

theorem selMcDevinfo : Statement .selMcDevinfo := fun _ _ _ h => ⟨of_decide_eq_true h, by decide⟩

theorem selMcMediainfo : Statement .selMcMediainfo := fun _ _ _ h => ⟨of_decide_eq_true h, by decide⟩

theorem selLcdMediainfo : Statement .selLcdMediainfo := fun _ _ _ h => ⟨of_decide_eq_true h, by decide⟩

theorem selMcBlockdata : Statement .selMcBlockdata := fun _ _ _ h => ⟨of_decide_eq_true h, by decide⟩

theorem selMcAck : Statement .selMcAck := fun _ _ _ h => ⟨of_decide_eq_true h, by decide⟩

theorem selVibDevinfo : Statement .selVibDevinfo := fun _ _ _ h => ⟨of_decide_eq_true h, by decide⟩

theorem selVibMediainfo : Statement .selVibMediainfo := fun _ _ _ h => ⟨of_decide_eq_true h, by decide⟩

theorem selVibCondition : Statement .selVibCondition := fun _ _ _ h => ⟨of_decide_eq_true h, by decide⟩

theorem selVibAstdata : Statement .selVibAstdata := fun _ _ _ h => ⟨of_decide_eq_true h, by decide⟩

theorem selVibAck : Statement .selVibAck := fun _ _ _ h => ⟨of_decide_eq_true h, by decide⟩

end Sys2Proof.Laws.EncodeFits
end

