-- ==== Sys2Proof/Tests/Slice0.lean ====
section
/-! SUPPORT. The sitting's own tests: ill-formed terms, codes written out from the spec, single steps of its vectors, and for
every statement with hypotheses a state and operands that meet them. -/

-- The kernel evaluates these tests one after another: begun all at once they need more threads than a checker has.
set_option Elab.async false

open Sys2Proof Sys2Proof.Machine

namespace Sys2Proof.Tests

/-! ### Ill-formed terms: one for each check of `wellFormed` -/

/-- A request with the given payload. -/
def req (payload : List Word) : Req := { orgPort := 0, orgId := 0, dstPort := 0, payload := payload }

theorem test_wf_next : wellFormed defaultParams (.actNext 36) = false := by decide
theorem test_wf_or : wellFormed defaultParams (.actOr 18) = false := by decide
theorem test_wf_push : wellFormed defaultParams (.actPush 18) = false := by decide
theorem test_wf_count : wellFormed defaultParams (.rdiMc (req (List.replicate 256 0))) = false := by decide +kernel
theorem test_wf_function : wellFormed defaultParams (.getcondCtrl (req [2])) = false := by decide
theorem test_wf_no_function : wellFormed defaultParams (.getmediaMc (req [])) = false := by decide
theorem test_wf_lcd_function : wellFormed defaultParams (.getmediaLcd (req [2])) = false := by decide
theorem test_wf_write_length : wellFormed defaultParams (.bwriteMc (req (2 :: 5 :: List.replicate 31 0))) = false := by decide +kernel
theorem test_wf_write_phase : wellFormed defaultParams (.bwriteVib (req [0x100, 0x00040000, 0])) = false := by decide +kernel
theorem test_wf_lcd_length : wellFormed defaultParams (.bwriteLcd (req [4, 0])) = false := by decide
theorem test_wf_read_phase : wellFormed defaultParams (.breadMc (req [2, 0x00010006])) = false := by decide +kernel
theorem test_wf_complete_phase : wellFormed defaultParams (.bcompleteMc (req [2, 0x00030005])) = false := by decide +kernel
theorem test_wf_condition_length : wellFormed defaultParams (.setcondVib (req [0x100])) = false := by decide
theorem test_wf_not_ours : wellFormed defaultParams (.notOurs (req []) 0x20 1) = false := by decide
theorem test_wf_unrec_other : wellFormed defaultParams (.unrec (req []) 0x21 1) = false := by decide
theorem test_wf_unrec_known : wellFormed defaultParams (.unrec (req []) 0x01 1) = false := by decide +kernel
theorem test_wf_bad_phase : wellFormed defaultParams (.badPhase (req [2, 5]) 0x01 11) = false := by decide +kernel

/-! ### Codes written out from the spec decode to their operations -/

/-- R160. -/
theorem test_decode_sample : decode defaultParams (.sample 0x88) = .ok (.sample 0x88) := by decide +kernel

/-- R149, entry of IDLE and 0x88. -/
theorem test_decode_act_next : decode defaultParams (.tte .next 0x0004) = .ok (.actNext 4) := by decide +kernel

/-- R149, entry of START8 and 0xB8. -/
theorem test_decode_act_reset : decode defaultParams (.tte .reset 0x0490) = .ok (.actReset) := by decide +kernel

/-- R149, entry of B1 and 0x84. -/
theorem test_decode_act_or : decode defaultParams (.tte .or 0x1019) = .ok (.actOr 4) := by decide +kernel

/-- R149, entry of D3 and 0xD2. -/
theorem test_decode_act_push : decode defaultParams (.tte .push 0x384E) = .ok (.actPush 14) := by decide +kernel

/-- R149, entry of B0 and 0x44. -/
theorem test_decode_act_end : decode defaultParams (.tte .endPkt 0x0100) = .ok (.actEnd) := by decide +kernel

/-- R149, entry of F03 and 0x72. -/
theorem test_decode_act_error : decode defaultParams (.tte .error 0x0201) = .ok (.actError) := by decide +kernel

/-- M27. -/
theorem test_decode_rdi_ctrl :
    decode defaultParams (.packet [0x02, 0xC0, 0x20, 0x01, 0x00, 0x00, 0x00, 0x07, 0x00, 0x00, 0x00, 0x07, 0xE3]) =
      .ok (.rdiCtrl { orgPort := 3, orgId := 0, dstPort := 0, payload := [7, 7] }) := by
  decide +kernel

/-- M2. -/
theorem test_decode_rdi_mc :
    decode defaultParams (.packet [0x00, 0x00, 0x01, 0x01, 0x00]) =
      .ok (.rdiMc { orgPort := 0, orgId := 0, dstPort := 0, payload := [] }) := by
  decide +kernel

/-- M3. -/
theorem test_decode_rdi_vib :
    decode defaultParams (.packet [0x00, 0x00, 0x02, 0x01, 0x03]) =
      .ok (.rdiVib { orgPort := 0, orgId := 0, dstPort := 0, payload := [] }) := by
  decide +kernel

/-- M4. -/
theorem test_decode_getcond_ctrl :
    decode defaultParams (.packet [0x01, 0x00, 0x20, 0x09, 0x00, 0x00, 0x00, 0x01, 0x29]) =
      .ok (.getcondCtrl { orgPort := 0, orgId := 0, dstPort := 0, payload := [1] }) := by
  decide +kernel

/-- M8. -/
theorem test_decode_getcond_vib :
    decode defaultParams (.packet [0x01, 0x00, 0x02, 0x09, 0x00, 0x00, 0x01, 0x00, 0x0B]) =
      .ok (.getcondVib { orgPort := 0, orgId := 0, dstPort := 0, payload := [0x100] }) := by
  decide +kernel

/-- M10. -/
theorem test_decode_getmedia_mc :
    decode defaultParams (.packet [0x02, 0x00, 0x01, 0x0A, 0x00, 0x00, 0x00, 0x02, 0x00, 0x00, 0x00, 0x00, 0x0B]) =
      .ok (.getmediaMc { orgPort := 0, orgId := 0, dstPort := 0, payload := [2, 0] }) := by
  decide +kernel

/-- M11. -/
theorem test_decode_getmedia_lcd :
    decode defaultParams (.packet [0x02, 0x00, 0x01, 0x0A, 0x00, 0x00, 0x00, 0x04, 0x00, 0x00, 0x00, 0x00, 0x0D]) =
      .ok (.getmediaLcd { orgPort := 0, orgId := 0, dstPort := 0, payload := [4, 0] }) := by
  decide +kernel

/-- M13. -/
theorem test_decode_getmedia_vib :
    decode defaultParams (.packet [0x02, 0x00, 0x02, 0x0A, 0x00, 0x00, 0x01, 0x00, 0x00, 0x00, 0x00, 0x00, 0x0B]) =
      .ok (.getmediaVib { orgPort := 0, orgId := 0, dstPort := 0, payload := [0x100, 0] }) := by
  decide +kernel

/-- R261, R109. -/
theorem test_decode_bwrite_lcd :
    decode defaultParams (.packet [0x03, 0x00, 0x01, 0x0C, 0x00, 0x00, 0x00, 0x04, 0x00, 0x00, 0x00, 0x00, 0xAA, 0xBB, 0xCC, 0xDD, 0x0A]) =
      .ok (.bwriteLcd { orgPort := 0, orgId := 0, dstPort := 0, payload := [4, 0, 0xAABBCCDD] }) := by
  decide +kernel

/-- M14. -/
theorem test_decode_bread_mc :
    decode defaultParams (.packet [0x02, 0x00, 0x01, 0x0B, 0x00, 0x00, 0x00, 0x02, 0x00, 0x00, 0x00, 0x05, 0x0F]) =
      .ok (.breadMc { orgPort := 0, orgId := 0, dstPort := 0, payload := [2, 5] }) := by
  decide +kernel

/-- M15. -/
theorem test_decode_bread_vib :
    decode defaultParams (.packet [0x02, 0x00, 0x02, 0x0B, 0x00, 0x00, 0x01, 0x00, 0x00, 0x00, 0x00, 0x00, 0x0A]) =
      .ok (.breadVib { orgPort := 0, orgId := 0, dstPort := 0, payload := [0x100, 0] }) := by
  decide +kernel

/-- M21. -/
theorem test_decode_bwrite_vib :
    decode defaultParams (.packet [0x03, 0x00, 0x02, 0x0C, 0x00, 0x00, 0x01, 0x00, 0x00, 0x00, 0x00, 0x00, 0x13, 0x00, 0x00, 0x00, 0x1F]) =
      .ok (.bwriteVib { orgPort := 0, orgId := 0, dstPort := 0, payload := [0x100, 0, 0x13000000] }) := by
  decide +kernel

/-- M22. -/
theorem test_decode_bcomplete_mc :
    decode defaultParams (.packet [0x02, 0x00, 0x01, 0x0D, 0x00, 0x00, 0x00, 0x02, 0x00, 0x04, 0x00, 0x05, 0x0D]) =
      .ok (.bcompleteMc { orgPort := 0, orgId := 0, dstPort := 0, payload := [2, 0x00040005] }) := by
  decide +kernel

/-- M25. -/
theorem test_decode_setcond_vib :
    decode defaultParams (.packet [0x02, 0x00, 0x02, 0x0E, 0x00, 0x00, 0x01, 0x00, 0x11, 0x22, 0x33, 0x44, 0x4B]) =
      .ok (.setcondVib { orgPort := 0, orgId := 0, dstPort := 0, payload := [0x100, 0x11223344] }) := by
  decide +kernel

/-- M28. -/
theorem test_decode_not_ours :
    decode defaultParams (.packet [0x00, 0x40, 0x21, 0x01, 0x60]) =
      .ok (.notOurs { orgPort := 1, orgId := 0, dstPort := 0, payload := [] } 0x21 1) := by
  decide +kernel

/-- M9. -/
theorem test_decode_unrec :
    decode defaultParams (.packet [0x00, 0x00, 0x01, 0x03, 0x02]) =
      .ok (.unrec { orgPort := 0, orgId := 0, dstPort := 0, payload := [] } 0x01 3) := by
  decide +kernel

/-- M16. -/
theorem test_decode_bad_phase :
    decode defaultParams (.packet [0x02, 0x00, 0x01, 0x0B, 0x00, 0x00, 0x00, 0x02, 0x00, 0x01, 0x00, 0x06, 0x0D]) =
      .ok (.badPhase { orgPort := 0, orgId := 0, dstPort := 0, payload := [2, 0x00010006] } 0x01 11) := by
  decide +kernel

/-- A memory-card write of phase 1 of block 5 (M17 with 34 words): `22 00 01 0C`, function code 2, address 0x00010005, 128 data
bytes, checksum byte `0x29`. -/
theorem test_decode_bwrite_mc :
    decode defaultParams (.packet ([0x22, 0x00, 0x01, 0x0C, 0x00, 0x00, 0x00, 0x02, 0x00, 0x01, 0x00, 0x05] ++ List.replicate 128 0 ++
      [0x29])) = .ok (.bwriteMc (req (2 :: 0x00010005 :: List.replicate 32 0))) := by
  decide +kernel

/-- The thirteen selector values of R113, and a reserved one. -/
theorem test_decode_selectors :
    (List.range 14).map (fun v => decodeSel defaultParams (BitVec.ofNat 4 v)) =
      [some .selNothing,
        some .selCtrlDevinfo,
        some .selCtrlStatus,
        some .selMcDevinfo,
        some .selMcMediainfo,
        some .selLcdMediainfo,
        some .selMcBlockdata,
        some .selMcAck,
        some .selVibDevinfo,
        some .selVibMediainfo,
        some .selVibCondition,
        some .selVibAstdata,
        some .selVibAck, none] := by
  decide

/-- M5, M6: a missing and a wrong function code. -/
theorem test_decode_no_function_code :
    decode defaultParams (.packet [0x00, 0x00, 0x20, 0x09, 0x29]) = .ok (.unrec (req []) 0x20 9) := by decide +kernel

/-- A reserved entry (`next` = 36), an entry without the flag of its place, a bad length, a reserved selector. -/
theorem test_decode_refusals :
    decode defaultParams (.tte .next 36) = .error .reservedEntry ∧ decode defaultParams (.tte .push 4) = .error .notSelected ∧
    decode defaultParams (.packet [0x01, 0x00, 0x20, 0x09, 0x28]) = .error .badLength ∧
    decode defaultParams (.sel 13) = .error .reservedSelector := by decide +kernel

/-! ### Single steps -/

/-- The state an outcome leaves, or the reset state. -/
def after : Result → State
  | .next t => t
  | _ => State.reset

/-- The state that holds a raw packet at the ring's start, published, with a dispatch turn and a busy transmitter. -/
def received (raw : List Byte) : State :=
  { State.reset.placeCode (.packet raw) with script := [{ agent := .dispatch, txBusy := true }] }

/-- R160: from reset, sample byte 0x88 goes to START4. -/
theorem test_step_sample : (after (step (State.reset.withFetchWord 8 0x88))).dstate = 4 := by decide +kernel

/-- R165: D3 with byte 0x1E pushes 0x20 and begins the next byte with bit 7. -/
theorem test_push :
    let t := after (exec (.sample 0x1E) { State.reset with dstate := 32, acc := 0x20, script := [turnOf .capture] })
    t.dstate = 14 ∧ t.acc = 0x80 ∧ t.rxor = 0x20 ∧ t.wr = 1 ∧ Memory.read t.ring 0 = 0x20 := by decide +kernel

/-- R166: B0 with byte 0x44 publishes offset 5. -/
theorem test_end :
    let t := after (exec (.sample 0x44) { State.reset with dstate := 12, wr := 5, script := [turnOf .capture] })
    t.dstate = 0 ∧ t.handoff = [5] ∧ t.pstart = 5 := by decide +kernel

/-- R197: `HANDOFF_DEPTH = 1`, `q = [5]`, End with `wr = 10`. -/
theorem test_handoff_overflow :
    let t := after (exec .actEnd { State.reset with handoff := [5], wr := 10, pstart := 5 })
    t.fatal = true ∧ t.fatalCause = 1 ∧ t.handoff = [5] ∧ t.pstart = 5 := by decide +kernel

/-- R202: a run that wraps the store is read at indices 4094, 4095, 0, 1, 2. -/
theorem test_copy_wraps :
    let t := { State.reset with ring := [(0, 3), (1, 4), (2, 5), (4094, 1), (4095, 2)], rd := 4094 }.copyOut 4099 []
    t.rawBytes = [1, 2, 3, 4, 5] ∧ t.rd = 4099 := by decide +kernel

/-- M27: the port of the sender is recorded, the destination's is ignored. -/
theorem test_step_request :
    let t := after (step (received [0x02, 0xC0, 0x20, 0x01, 0x00, 0x00, 0x00, 0x07, 0x00, 0x00, 0x00, 0x07, 0xE3]))
    t.sel = 1 ∧ t.activePort = 3 ∧ t.rd = 13 ∧ t.rdRelease = 13 ∧ t.idleOpportunity = false := by decide +kernel

/-- M14: a block read is recorded. -/
theorem test_step_block_read :
    let t := after (step (received [0x02, 0x00, 0x01, 0x0B, 0x00, 0x00, 0x00, 0x02, 0x00, 0x00, 0x00, 0x05, 0x0F]))
    t.sel = 6 ∧ t.readOutstanding = true ∧ t.readAddr = 5 ∧ t.readUnit = .memoryCard := by decide +kernel

/-- V (R224): `01 00 20 09 28` has a length that does not agree with its count. -/
theorem test_step_length_drop :
    let t := after (step (received [0x01, 0x00, 0x20, 0x09, 0x28]))
    t.sel = 0 ∧ t.activePort = 0 ∧ t.rd = 5 := by decide +kernel

/-- R313: a sampled response at port 1. -/
theorem test_send_ctrl_status :
    let t := after (step { State.reset with sel := 2, activePort := 1,
                                            script := [{ agent := .dispatch, reply := [0xFFFF0000, 0x80808080] }] })
    t.out = [67, 0x03604008, 0x00000001, 0xFFFF0000, 0x80808080, 0x2A560989] ∧ t.sel = 0 := by decide +kernel

/-- R318: an acknowledgement at port 2, and its wire bytes. -/
theorem test_send_ack :
    let t := after (step { State.reset with sel := 7, activePort := 2, script := [{ agent := .dispatch }] })
    t.out = [19, 0x00818007, 0x06060707] ∧ wireBytes t.out = [0x00, 0x81, 0x80, 0x07, 0x06] := by decide +kernel

/-- R234: worked values of `Cks`. -/
theorem test_checksum :
    cks [0x01000000, 0] = 0x01000000 ∧ cks [0x01200009, 1] = 0x29280808 ∧ cks [0xFFFFFFFF] = 0x00FF00FF := by decide

/-- R93 and D1: the first sample bytes of the frame of `00 00 20 01 21`. -/
theorem test_encoder : ((packPairs .oldestHigh (enc .bHigh [0x00, 0x00, 0x20, 0x01, 0x21])).1).take 4 = [0x88, 0x88, 0xB4, 0x84] := by
  decide +kernel

/-! ### Witnesses: states and operands that meet the hypotheses of the statements

Where a statement has several clauses, one line for each, at a boundary of its range. -/

/-- The outcome is a next state. -/
def answers : Result → Bool
  | .next _ => true
  | _ => false

theorem next_after {r : Result} (h : answers r = true) : r = .next (after r) := by
  cases r with
  | next => rfl
  | fault => cases h
  | refused => cases h

/-- A packet copied out of the ring: the request of M1. -/
def copied : State :=
  { State.reset with raw := Memory.writeRun [] 0 [0x00, 0x00, 0x20, 0x01, 0x21], rawlen := 5, rd := 5, rdRelease := 5 }

theorem copied_words : packetWords copied.rawBytes = some [0x00002001] := by decide +kernel

theorem witness_DecodeOfEncode :
    paramsLegal defaultParams = true ∧ wellFormed defaultParams (.actNext 35) = true ∧ wellFormed defaultParams (.actPush 17) = true ∧
    wellFormed defaultParams (.rdiMc (req (List.replicate 255 7))) = true ∧
    wellFormed defaultParams (.bwriteMc (req (2 :: 0x00030005 :: List.replicate 32 0))) = true ∧
    wellFormed defaultParams (.badPhase (req [2, 0x00010006]) 0x01 11) = true ∧ wellFormed defaultParams (.unrec (req []) 0x20 0xFC) = true := by
  decide +kernel

theorem witness_MatcherFollowsRows :
    codesLegal 6 defaultCodes = true ∧ addrId 6 0x21 = 0x21 ∧ addrId 6 0x01 = 0x01 ∧ addrId 6 0x20 = 0x20 ∧
    ((0x21 : Byte) ≠ 0x20 ∧ (0x21 : Byte) ≠ 0x01 ∧ (0x21 : Byte) ≠ 0x02) ∧
    (∃ r, (requestRows defaultCodes)[8]? = some r ∧
      r.holds defaultCodes 0x01 12 (2 :: 0x00030000 :: List.replicate 32 0) = true) ∧
    (∃ r, (requestRows defaultCodes)[0]? = some r ∧ r.holds defaultCodes 0x20 1 [] = true) ∧
    ((0x01 : Byte) = 0x01 ∧ ∀ r ∈ requestRows defaultCodes, r.holds defaultCodes 0x01 3 [] = false) := by
  refine ⟨by decide +kernel, by decide, by decide, by decide, by decide, ⟨_, rfl, by decide +kernel⟩, ⟨_, rfl, by decide⟩, rfl,
    by decide +kernel⟩

/-! Codes a configuration may have (00_scope R6 does not limit them) and codes under which a packet meets two rows. -/

/-- R250: one number for two commands of different tables, a number for two addresses, and an address with port bits are all
accepted. -/
theorem test_codes_accepted :
    codesLegal 6 { defaultCodes with cmdBlockCompleteWrite := 14 } = true ∧
    codesLegal 6 { defaultCodes with addrSub1 := 0x01, cmdSetCondition := 9 } = true ∧
    codesLegal 6 { defaultCodes with addrSub1 := 0xC2, cmdGetCondition := 0xFC } = true := by decide +kernel

/-- R250: one number for two commands of the memory card's table, and one function code for the memory card and the LCD. -/
theorem test_codes_refused :
    codesLegal 6 { defaultCodes with cmdBlockRead := 13 } = false ∧
    codesLegal 6 { defaultCodes with funcLcd := 2 } = false := by decide +kernel

/-- With Command 14 for both, the packet's table tells the two commands apart (R265, R266). -/
theorem test_codes_by_table :
    matchRequest { defaultCodes with cmdBlockCompleteWrite := 14 } (req [2, 0x00040005]) 0x01 14 =
      .bcompleteMc (req [2, 0x00040005]) ∧
    matchRequest { defaultCodes with cmdBlockCompleteWrite := 14 } (req [2, 0x00040005]) 0x02 14 =
      .setcondVib (req [2, 0x00040005]) := by decide +kernel

theorem witness_RegistersCarryTheRequest : copied.validate = some (copied.parsed 0x00002001 []) :=
  State.validate_some.mpr ⟨rfl, _, _, copied_words, rfl⟩

theorem witness_NextLoadsDecodeState : State.reset.fatal = false ∧ 35 < State.reset.cfg.numStates := by decide

theorem witness_ResetReturnsToPacketStart : State.reset.fatal = false := rfl

theorem witness_OrSetsProvenBits :
    State.reset.fatal = false ∧ State.reset.ortab[17]? = some (0x01, 0x80) := by decide

/-- A Push with room for one more byte. -/
theorem witness_PushStoresTheByte :
    let s := { State.reset with wr := 4095, ring := [(4094, 7)] }
    s.fatal = false ∧ s.ortab[16]? = some (0x00, 0x80) ∧ Memory.wf s.ring ∧
    cursorSub s.cfg.cursorW s.wr s.rdSeen < s.cfg.ringSize := by decide

theorem witness_EndPublishesGoodPackets :
    (State.reset.fatal = false ∧ State.reset.rxor = 0 ∧ State.reset.handoff.length < State.reset.cfg.handoffDepth) ∧
    (let s := { State.reset with rxor := 1, handoff := [5] }
     s.fatal = false ∧ s.rxor ≠ 0) := by decide

/-- A Push at exactly `RING_SIZE` unread bytes, and a good End on a full handoff. -/
theorem witness_BackpressureHalts :
    (let s := { State.reset with wr := 4096 }
     s.fatal = false ∧ s.ortab[14]? = some (0x01, 0x00) ∧
     s.cfg.ringSize ≤ cursorSub s.cfg.cursorW s.wr s.rdSeen) ∧
    (let s := { State.reset with handoff := [5], wr := 10 }
     s.fatal = false ∧ s.rxor = 0 ∧ s.handoff.length = s.cfg.handoffDepth) := by decide

theorem witness_ErrorOnlyRaisesItsOutput : State.reset.fatal = false := rfl

/-- The entry of D3 and byte 0x1E (R149): Push with row 16. -/
theorem witness_SamplePerformsSelectedActions :
    ∃ e row, State.reset.fatal = false ∧ { State.reset with dstate := 32 }.tableEntry 0x1E = some e ∧ entryLegal defaultParams e = true ∧
      { State.reset with dstate := 32 }.orRow e.oridx = some row :=
  ⟨unpackTte defaultParams 0x404E, (0x00, 0x80), rfl, by decide +kernel, by decide +kernel, by decide +kernel⟩

/-- The tables of a state whose parameters are the defaults. -/
theorem built_of_default {s : State} (hc : s.cfg = defaultParams) (ho : s.ortab = refOrTable) (ht : s.table = []) :
    ReferenceTables s :=
  ⟨by rw [hc]; rfl, ⟨by rw [hc]; decide +kernel, by rw [hc, ho]; decide +kernel, ht⟩⟩

theorem witness_SampleCompletesOnEveryByte :
    let s := { State.reset with dstate := 35, wr := 4095 }
    s.fatal = false ∧ BuiltTables s ∧ s.dstate < s.cfg.numStates ∧ s.cfg.graph = refGraph ∧ s.srcOverrun = false ∧
    s.handoff.length < s.cfg.handoffDepth ∧ s.rdSeen = s.rdRelease ∧ cursorSub s.cfg.cursorW s.wr s.rdSeen < s.cfg.ringSize :=
  ⟨rfl, (built_of_default rfl rfl rfl).built, by decide, rfl, rfl, by decide, rfl, by decide⟩

/-- A decoder step with a draw beyond `rd_release` and one with a draw that catches up. -/
theorem witness_ReleaseCopyStaysInRange :
    (∃ t, exec (.sample 0x88)
      { State.reset with rdRelease := 5, script := [{ agent := .capture, rdSeenDraw := 6 }] } = .next t) ∧
    (let s := { State.reset with rdRelease := 5, script := [{ agent := .capture, rdSeenDraw := 5 }] }
     s.input.rdSeenDraw < 2 ^ s.cfg.cursorW ∧
     2 * cursorSub s.cfg.cursorW s.input.rdSeenDraw s.rdSeen < 2 ^ s.cfg.cursorW ∧
     2 * cursorSub s.cfg.cursorW s.rdRelease s.input.rdSeenDraw < 2 ^ s.cfg.cursorW) :=
  ⟨⟨_, next_after (by decide +kernel)⟩, by decide⟩

theorem witness_SampleEqualsFourMicroSteps :
    let s := { State.reset with script := [turnOf .capture] }
    ReferenceTables s ∧ s.dstate < 36 ∧ ∃ t, exec (.sample 0x88) s = .next t ∧ t.fatal = false :=
  ⟨built_of_default rfl rfl rfl, by decide, _, next_after (by decide +kernel), by decide +kernel⟩

/-- The frames of M1 (exclusive OR zero) and of vector D8 (not zero) behind three idle pairs, from reset. -/
theorem witness_FramedPacketIsPublished :
    let s := State.reset
    let data : List Byte := [0x00, 0x00, 0x20, 0x01, 0x21]
    let bad : List Byte := [0x00, 0x00, 0x20, 0x01, 0x20]
    let lead : List Pair := [0b00, 0b01, 0b11]
    data ≠ [] ∧ xorBytes data = 0 ∧ bad ≠ [] ∧ xorBytes bad ≠ 0 ∧ lead.length ≤ 3 ∧ (∀ p ∈ lead, p ≠ 0b10) ∧
    paramsLegal s.cfg = true ∧ ReferenceTables s ∧ s.dstate = 0 ∧ s.fatal = false ∧ s.srcOverrun = false ∧
    s.rdSeen = s.rdRelease ∧ s.handoff.length < s.cfg.handoffDepth ∧ Memory.wf s.ring ∧
    cursorSub s.cfg.cursorW s.pstart s.rdSeen + data.length ≤ s.cfg.ringSize :=
  ⟨by decide, by decide, by decide, by decide, by decide, by decide, by decide +kernel, built_of_default rfl rfl rfl, rfl,
    rfl, rfl, rfl, by decide, Memory.wf_nil, by decide⟩

theorem witness_DamagedStartLeavesNoTrace :
    let s := State.reset
    let lead : List Pair := [0b01]
    lead.length ≤ 3 ∧ (∀ p ∈ lead, p ≠ 0b10) ∧ (∃ p : Pair, (startPattern .bHigh)[9]? = some p ∧ (0b10 : Pair) ≠ p) ∧
    (∃ p : Pair, (startPattern .bHigh)[0]? = some p ∧ (0b11 : Pair) ≠ p) ∧
    ReferenceTables s ∧ s.dstate = 0 ∧ s.fatal = false ∧ s.srcOverrun = false :=
  ⟨by decide, by decide, ⟨_, rfl, by decide⟩, ⟨_, rfl, by decide⟩, built_of_default rfl rfl rfl, rfl, rfl, rfl⟩

/-- START9 with byte 0xE1 (R149, Reset) and IDLE with byte 0x88 (no Reset). -/
theorem witness_NothingPushedOutsideFrames :
    (let s := { State.reset with dstate := 9, script := [turnOf .capture] }
     ReferenceTables s ∧ s.dstate ≤ 9 ∧ s.tableEntry 0xE1 = some (unpackTte defaultParams 0x0491) ∧
     (unpackTte defaultParams 0x0491).reset = true ∧ ∃ t, exec (.sample 0xE1) s = .next t) ∧
    (let s := { State.reset with script := [turnOf .capture] }
     s.tableEntry 0x88 = some (unpackTte defaultParams 0x0004) ∧ (unpackTte defaultParams 0x0004).reset = false ∧
     ∃ t, exec (.sample 0x88) s = .next t) :=
  ⟨⟨built_of_default rfl rfl rfl, by decide, by decide +kernel, by decide +kernel, _, next_after (by decide +kernel)⟩,
    by decide +kernel, by decide +kernel, _, next_after (by decide +kernel)⟩

/-! Graphs the builder refuses, one for each condition, and a table that lists an entry the builder never makes. -/

/-- The default parameters with another graph. -/
def withGraph (cells : List (List (Option Config.Edge))) : Config.Params :=
  { defaultParams with graph := { idle := 0, cells := cells } }

/-- A graph of one state that carries an action on the pair 10. -/
def oneState (e : Config.Edge) : Config.Params := withGraph [[go 0, go 0, some e, go 0]]

/-- R143: no state, `IDLE` that is not state 0. -/
theorem test_build_idle :
    graphError (withGraph []) = some .idleNotZero ∧
    graphError { defaultParams with graph := { refGraph with idle := 1 } } = some .idleNotZero := by decide +kernel

/-- R143: a target outside the graph, a mask of two bits. -/
theorem test_build_edges :
    graphError (oneState { next := 1 }) = some .badTarget ∧
    graphError (oneState { next := 0, setmask := 3 }) = some .badMask := by decide +kernel

/-- R6: 65 states in 6 bits; one OR row in 0 bits is enough, two are not. -/
theorem test_build_widths :
    graphError (withGraph (List.replicate 65 [])) = some .tooManyStates ∧
    graphError { oneState { next := 0 } with oridxW := 0, entryW := 10 } = none ∧
    graphError { oneState { next := 0, setmask := 1 } with oridxW := 0, entryW := 10 } = some .tooManyRows := by
  decide +kernel

/-- R146: two pushes in one byte; Reset after Push. -/
theorem test_build_assertions :
    graphError (oneState { next := 0, push := true }) = some .badWalk ∧
    graphError (withGraph [[go 0, goReset 0, goPush 0, go 0]]) = some .badWalk := by decide +kernel

/-- R6: 65 states are refused before any table is asked for, and a refused graph refuses the step. -/
theorem test_step_refuses_graph :
    step { State.reset with cfg := withGraph (List.replicate 65 []) } = .refused .badConfiguration ∧
    step { State.reset with cfg := oneState { next := 0, push := true } } = .refused (.graphRefused .badWalk) := by
  constructor <;> rfl

/-- The hypotheses of the refusals: a refused graph, and an entry with `next = 36` listed where no decoder step looks. -/
theorem witness_ReferenceGraphIsAccepted :
    (let s := { State.reset with cfg := oneState { next := 0, push := true } }
     paramsLegal s.cfg = true ∧ graphError s.cfg = some .badWalk) ∧
    (let s := { State.reset with table := [(8970, 36)] }
     paramsLegal s.cfg = true ∧ builderRefuses s.cfg = none ∧ s.ortab = orTable s.cfg ∧ (8970, 36) ∈ s.table ∧
     entryLegal s.cfg (unpackTte s.cfg 36) = false) := by
  decide +kernel

theorem witness_TableHoldsCompiledWalks :
    (∃ tables, buildTables defaultParams = .ok tables) ∧ 35 < defaultParams.numStates ∧
    (∃ u : State, u.cfg = defaultParams ∧ BuiltTables u ∧ u.dstate = 35) :=
  ⟨⟨_, rfl⟩, by decide, { State.reset with dstate := 35 }, rfl, (built_of_default rfl rfl rfl).built, rfl⟩

/-- `CURSOR_W = 16`: a packet from cursor 0xFFFE ends at cursor 3, and the cursors wrap there. -/
theorem test_cursor_width :
    let t := { State.reset with cfg := { defaultParams with cursorW := 16 }, rd := 0xFFFE }.copyOut 3 []
    t.rawlen = 5 ∧ t.rd = 3 ∧ cursorAdd 16 0xFFFF 1 = 0 ∧ alignUp 16 0xFFFD .four = 0 := by decide +kernel

/-- `NUM_SEL = 8`: the values from 8 on are no selector values, and the catalog has seven images. -/
theorem test_num_sel :
    decodeSel { defaultParams with numSel := 8 } 7 = some .selMcAck ∧
    decodeSel { defaultParams with numSel := 8 } 8 = none ∧
    catalogWellFormed { defaultParams with numSel := 8 } (builtCatalog { defaultParams with numSel := 8 }) = true ∧
    wellFormed { defaultParams with numSel := 8 } .selVibDevinfo = false := by decide +kernel

/-- R92 and `PAIR_ORDER`: the pairs of 0x1B, oldest first, in either order. -/
theorem test_pair_order :
    samplePairs .oldestHigh 0x1B = [0, 1, 2, 3] ∧ samplePairs .oldestLow 0x1B = [3, 2, 1, 0] ∧
    packSample .oldestLow 3 2 1 0 = 0x1B := by decide

theorem witness_ChecksumIsLinear : ([1, 2] : List Word).length = ([3, 4] : List Word).length := rfl

theorem witness_PortsCancelInChecksum : (0x1C200005 : Word) &&& headerPorts 6 3 = 0 ∧ (headerPorts 6 3 : Word) = 0x00C0C000 := by
  decide

theorem witness_DynamicChecksumByDelta :
    dynLen defaultParams 2 = some 2 ∧ ([0, 0] : List Word).length = 2 ∧
    ([0xFFFF0000, 0x80808080] : List Word).length = 2 ∧
    imageWellFormed defaultParams 2 (67 :: 0x03200008 :: 1 :: [0, 0] ++ [0x2A290909]) = true := by decide +kernel

/-- Runs of 1025 and of 1026 bytes. -/
theorem witness_CopyOutMovesTheRun :
    Memory.wf State.reset.raw ∧ cursorSub State.reset.cfg.cursorW 1025 State.reset.rd ≤ 1025 ∧
    1025 < cursorSub State.reset.cfg.cursorW 1026 State.reset.rd := ⟨Memory.wf_nil, by decide, by decide⟩

/-- A packet that is parsed, and one for each way to be dropped: oversize, length 6, length 1, a count of 1 in 5 bytes. -/
theorem witness_ValidatorParsesOrDrops :
    (copied.pw.length = 255 ∧ copied.oversize = false ∧ copied.rawlen.toNat % 4 = 1 ∧ copied.rawlen.toNat ≠ 1 ∧
      copied.rawlen.toNat - 1 =
        (((be32 (Memory.read copied.raw 0) (Memory.read copied.raw 1) (Memory.read copied.raw 2)
          (Memory.read copied.raw 3)).extractLsb' 24 8).toNat + 1) * 4) ∧
    { copied with oversize := true }.oversize = true ∧
    { copied with rawlen := 6 }.rawlen.toNat % 4 ≠ 1 ∧
    { copied with rawlen := 1 }.rawlen.toNat = 1 ∧
    { copied with rawlen := 9 }.rawlen.toNat - 1 ≠
      (((be32 (Memory.read copied.raw 0) (Memory.read copied.raw 1) (Memory.read copied.raw 2)
        (Memory.read copied.raw 3)).extractLsb' 24 8).toNat + 1) * 4 := by decide +kernel

/-- The ring with a packet published at its start, before a dispatch turn. -/
def published (raw : List Byte) : State :=
  { (State.reset.placeCode (.packet raw)) with wr := raw.length, pstart := raw.length }

/-- A packet of a bad length (`01 00 20 09 28`), and M28, M9 and M16 for the three drops of the matcher. -/
theorem witness_DroppedPacketLeavesSelection :
    (published [0x01, 0x00, 0x20, 0x09, 0x28]).fatal = false ∧
    (packetWords ((published [0x01, 0x00, 0x20, 0x09, 0x28]).copyOut 5 []).rawBytes = none) ∧
    ∃ t u v : State,
      ((published [0x00, 0x40, 0x21, 0x01, 0x60]).copyOut 5 []).validate = some t ∧
      t.pendingRequest = .notOurs { orgPort := 1, orgId := 0, dstPort := 0, payload := [] } 0x21 1 ∧
      ((published [0x00, 0x00, 0x01, 0x03, 0x02]).copyOut 5 []).validate = some u ∧
      u.pendingRequest = .unrec (req []) 0x01 3 ∧
      ((published [0x02, 0x00, 0x01, 0x0B, 0x00, 0x00, 0x00, 0x02, 0x00, 0x01, 0x00, 0x06, 0x0D]).copyOut 13 []).validate =
        some v ∧
      v.pendingRequest = .badPhase (req [2, 0x00010006]) 0x01 11 :=
  ⟨by decide +kernel, by decide +kernel, _, _, _,
    State.validate_some.mpr ⟨by decide +kernel, 0x00402101, [], by decide +kernel, rfl⟩, by decide +kernel,
    State.validate_some.mpr ⟨by decide +kernel, 0x00000103, [], by decide +kernel, rfl⟩, by decide +kernel,
    State.validate_some.mpr ⟨by decide +kernel, 0x0200010B, [2, 0x00010006], by decide +kernel, rfl⟩, by decide +kernel⟩

/-- The published packet of M1 meets the invariants. -/
theorem witness_CopiedPacketHasZeroXor :
    let s := { State.reset with
      ring := [(2, 0x20), (3, 0x01), (4, 0x21)], handoff := [5], wr := 5, pstart := 5 }
    CursorInv s ∧ ChecksumInv s ∧ Memory.wf s.raw ∧ s.handoff = [5] ∧ cursorSub s.cfg.cursorW 5 s.rd ≤ 1025 :=
  ⟨⟨rfl, by decide, by decide, rfl, by decide, by decide⟩, ⟨by decide +kernel, by decide +kernel, rfl⟩, Memory.wf_nil, rfl, by decide⟩

theorem witness_InformationRequestsSelect :
    State.reset.fatal = false ∧ State.reset.cfg.codes = defaultCodes ∧
    codesLegal State.reset.cfg.portShift defaultCodes = true ∧ addrId State.reset.cfg.portShift 0x20 = 0x20 ∧
    routeTo defaultCodes 0x20 = some .ctrl ∧ routeTo defaultCodes 0x01 = some .mc ∧ routeTo defaultCodes 0x02 = some .vib ∧
    0 < defaultCodes.cmdRequestDeviceInfo.toInt ∧ 0 < defaultCodes.cmdGetCondition.toInt ∧
    0 < defaultCodes.cmdGetMediaInfo.toInt := by decide +kernel

theorem witness_FunctionCodeSelects :
    State.reset.fatal = false ∧ codesLegal 6 defaultCodes = true ∧ addrId 6 0x20 = 0x20 ∧
    routeTo defaultCodes 0x20 = some .ctrl ∧ 0 < defaultCodes.cmdGetCondition.toInt ∧
    (req [1]).payload[0]? = some 0x00000001 ∧ (req []).payload[0]? ≠ some 0x00000001 ∧
    (req [2]).payload[0]? = some 0x00000002 ∧ (req [4]).payload[0]? = some 0x00000004 ∧
    ((req [8]).payload[0]? ≠ some 0x00000002 ∧ (req [8]).payload[0]? ≠ some 0x00000004) := by decide

/-- Phases 3 and 4, and 33 words. -/
theorem witness_CardWriteForwardsOnePhase :
    State.reset.fatal = false ∧ codesLegal 6 defaultCodes = true ∧ addrId 6 0x01 = 0x01 ∧
    routeTo defaultCodes 0x01 = some .mc ∧ 0 < defaultCodes.cmdBlockWrite.toInt ∧
    (List.replicate 32 (0 : Word)).length = 32 ∧
    (req (2 :: 0x00030005 :: List.replicate 32 0)).payload = 0x00000002 :: 0x00030005 :: List.replicate 32 0 ++ [] ∧
    ((0x00030005 : Word).extractLsb' 16 8).toNat ≤ 3 ∧ 3 < ((0x00040005 : Word).extractLsb' 16 8).toNat ∧
    ((req (2 :: 5 :: List.replicate 31 0)).payload[0]? = some 0x00000002 ∧
      (req (2 :: 5 :: List.replicate 31 0)).payload.length < 34) := by decide +kernel

theorem witness_LcdWriteForwardsAllWords :
    State.reset.fatal = false ∧ codesLegal 6 defaultCodes = true ∧ addrId 6 0x01 = 0x01 ∧
    routeTo defaultCodes 0x01 = some .mc ∧ 0 < defaultCodes.cmdBlockWrite.toInt ∧
    (req [4, 0, 9]).payload = 0x00000004 :: 0 :: 9 :: [] ∧
    ((req [4, 0]).payload[0]? = some 0x00000004 ∧ (req [4, 0]).payload.length < 3) ∧
    ((req [8, 0, 0]).payload[0]? ≠ some 0x00000002 ∧ (req [8, 0, 0]).payload[0]? ≠ some 0x00000004) := by decide

/-- Phases 0 and 1, and one word. -/
theorem witness_BlockReadBegins :
    State.reset.fatal = false ∧ codesLegal 6 defaultCodes = true ∧ addrId 6 0x02 = 0x02 ∧
    routeTo defaultCodes 0x02 = some .vib ∧ 0 < defaultCodes.cmdBlockRead.toInt ∧
    (req [2, 5]).payload = 2 :: 5 :: [] ∧ (5 : Word).extractLsb' 16 8 = 0 ∧
    State.reset.readOutstanding = false ∧ (0x00010006 : Word).extractLsb' 16 8 ≠ 0 ∧ (req [2]).payload.length < 2 := by
  decide

theorem witness_SecondBlockReadHalts :
    let s := { State.reset with readOutstanding := true, sel := 6 }
    s.fatal = false ∧ s.readOutstanding = true ∧ (req [2, 5]).payload = 2 :: 5 :: [] ∧
    (5 : Word).extractLsb' 16 8 = 0 := by decide

/-- Write with Phases 3 and 4 and with two words; complete with Phases 4 and 3; one word. -/
theorem witness_UnitWritesForwardTheirWords :
    State.reset.fatal = false ∧ codesLegal 6 defaultCodes = true ∧ addrId 6 0x02 = 0x02 ∧
    routeTo defaultCodes 0x02 = some .vib ∧ 0 < defaultCodes.cmdSetCondition.toInt ∧
    (req [0x100, 0x00030000, 7]).payload = 0x100 :: 0x00030000 :: 7 :: [] ∧
    ((0x00030000 : Word).extractLsb' 16 8).toNat ≤ 3 ∧ 3 < ((0x00040000 : Word).extractLsb' 16 8).toNat ∧
    (req [0x100, 0]).payload.length < 3 ∧ (req [2, 0x00040005]).payload = 2 :: 0x00040005 :: [] ∧
    (0x00040005 : Word).extractLsb' 16 8 = 4 ∧ (0x00030005 : Word).extractLsb' 16 8 ≠ 4 ∧
    (req [2]).payload.length < 2 := by decide

theorem witness_NonMatchesChangeNothing :
    State.reset.fatal = false ∧ (0x21 : Byte) ≠ defaultCodes.addrController ∧ (0x21 : Byte) ≠ defaultCodes.addrSub0 ∧
    (0x21 : Byte) ≠ defaultCodes.addrSub1 ∧ routeTo defaultCodes 0x01 = some .mc ∧ (0xFC : Byte).toInt ≤ 0 := by decide

theorem witness_NothingSelectedSendsNothing : State.reset.fatal = false := rfl

/-- A state with a pending selector before a dispatch turn with a free or a busy transmitter. -/
def pending (x : BitVec 4) (busy : Bool) : State :=
  { State.reset with sel := x, script := [{ agent := .dispatch, txBusy := busy }] }

/-- The shortest image (an acknowledgement, one word after the header) and a longer one. -/
theorem witness_StaticResponsesSendTheirImage :
    (Instr.selMcAck, 7) ∈ [(Instr.selCtrlDevinfo, 1), (.selMcDevinfo, 3), (.selMcMediainfo, 4), (.selLcdMediainfo, 5),
      (.selMcAck, 7), (.selVibDevinfo, 8), (.selVibMediainfo, 9), (.selVibAck, 12)] ∧
    (pending 7 false).fatal = false ∧ (pending 7 false).input.txBusy = false ∧
    (pending 7 false).tpl[7 - 1]? = some (0x13 :: 0x00010007 :: [0x06060707]) ∧ 1 ≤ ([0x06060707] : List Word).length ∧
    ([0x06060707] : List Word).length ≤ 256 ∧
    (pending 5 false).tpl[5 - 1]? = some (51 :: 0x02010008 :: [4, 0, 0x0F0D0C0C]) := by decide +kernel

theorem witness_SampledResponsesSendFreshWords :
    (pending 2 false).fatal = false ∧ (pending 2 false).input.txBusy = false ∧
    ((pending 2 false).tpl[1]? = some (67 :: 0x03200008 :: 1 :: [0, 0, 0x2A290909]) ∧
      ([0, 0, 0x2A290909] : List Word).length = (pending 2 false).cfg.ctrlDynWords + 1) ∧
    ((pending 10 false).tpl[9]? = some (51 :: 0x02020008 :: 0x100 :: [0, 0x090B0908]) ∧
      ([0, 0x090B0908] : List Word).length = (pending 10 false).cfg.vibcondDynWords + 1) := by decide +kernel

theorem witness_BlockResponsesEchoAddress :
    (pending 6 false).fatal = false ∧ (pending 6 false).input.txBusy = false ∧
    ((pending 6 false).tpl[5]? = some (2099 :: 0x82010008 :: 2 :: (List.replicate 129 0 ++ [0x890B0A0A])) ∧
      (List.replicate 129 0 ++ [0x890B0A0A] : List Word).length = 130 ∧
      imageWellFormed (pending 6 false).cfg 6
        (2099 :: 0x82010008 :: 2 :: (List.replicate 129 0 ++ [0x890B0A0A])) = true) ∧
    ((pending 11 false).tpl[10]? = some (67 :: 0x03020008 :: 0x100 :: [0, 0, 0x080B0908]) ∧
      ([0, 0, 0x080B0908] : List Word).length = (pending 11 false).cfg.astWords + 2) := by decide +kernel

theorem witness_BusyTransmitterKeepsSelection :
    (pending 12 true).fatal = false ∧ (pending 12 true).input.txBusy = true ∧ (12 : BitVec 4) ≠ 0 ∧
    decodeSel defaultParams 12 = some .selVibAck := by decide

theorem witness_SentResponseIsValidPacket :
    (pending 6 false).fatal = false ∧ (pending 6 false).input.txBusy = false ∧
    catalogWellFormed (pending 6 false).cfg (pending 6 false).tpl = true ∧ (6 : BitVec 4) ≠ 0 ∧
    decodeSel defaultParams 6 = some .selMcBlockdata := by decide +kernel

/-- Four transitions, of which one arrives in this turn. -/
theorem witness_StepRunsSampledByte :
    let s := { State.reset with srcPairs := [0b10, 0b00, 0b10], script := [{ agent := .capture, arrivals := [0b00] }] }
    s.inadmissible = none ∧ s.fatal = false ∧ s.input.rst = false ∧ s.input.agent = .capture ∧
    s.srcPairs ++ s.input.arrivals = [0b10, 0b00, 0b10, 0b00] ∧
    decode s.cfg (.sample (packSample s.cfg.pairOrder 0b10 0b00 0b10 0b00)) = .ok (.sample 0x88) := by
  decide +kernel

/-- The packet of M1, published, and one that is dropped for its length, with a pending selector. -/
theorem witness_StepRunsReceivedRequest :
    (let s := published [0x00, 0x00, 0x20, 0x01, 0x21]
     s.inadmissible = none ∧ s.fatal = false ∧ s.input.rst = false ∧ s.input.agent = .dispatch ∧
     catalogWellFormed s.cfg s.tpl = true ∧ s.handoff = [5] ∧
     (s.intake.copyOut 5 []).validate = some ((s.intake.copyOut 5 []).parsed 0x00002001 []) ∧
     decode s.cfg (.packet (s.intake.copyOut 5 []).rawBytes) = .ok (.rdiCtrl (req []))) ∧
    (let s := { published [0x01, 0x00, 0x20, 0x09, 0x28] with sel := 7 }
     s.inadmissible = none ∧ s.fatal = false ∧ s.input.rst = false ∧ s.input.agent = .dispatch ∧
     catalogWellFormed s.cfg s.tpl = true ∧ s.handoff = [5] ∧
     (s.intake.copyOut 5 []).validate.isNone = true) :=
  ⟨⟨by decide +kernel, by decide +kernel, by decide +kernel, by decide +kernel, by decide +kernel, by decide +kernel,
    State.validate_some.mpr ⟨by decide +kernel, _, _, by decide +kernel, rfl⟩, by decide +kernel⟩, by decide +kernel⟩

/-- A pending selector with built templates, and one whose image is missing while a packet waits. -/
theorem witness_StepServesSelector :
    (let s := pending 12 false
     s.inadmissible = none ∧ s.fatal = false ∧ s.input.rst = false ∧ s.input.agent = .dispatch ∧
     catalogWellFormed s.cfg s.tpl = true ∧ s.handoff = [] ∧ decode s.cfg (.sel s.sel) = .ok .selVibAck) ∧
    (let s := { pending 12 false with tpl := [], handoff := [5] }
     s.inadmissible = none ∧ s.fatal = false ∧ s.input.rst = false ∧ s.input.agent = .dispatch ∧
     catalogWellFormed s.cfg s.tpl = false) := by decide +kernel

/-- R310: a dispatch turn before the templates are built pops nothing and raises no output, with a packet and without; an image
of the right size with a wrong checksum is not built either (R293 (f)). -/
theorem test_templates_not_built :
    let t := after (step { published [0x00, 0x00, 0x20, 0x01, 0x21] with tpl := [] })
    let u := after (step { pending 0 false with tpl := State.reset.tpl.set 6 [19, 0x00010007, 0] })
    t.handoff = [5] ∧ t.rd = 0 ∧ t.sel = 0 ∧ t.tick = 1 ∧ u.idleOpportunity = false ∧ u.tick = 1 := by decide +kernel

theorem witness_CaptureWaitsForFourPairs :
    let s := { State.reset with srcPairs := [0b10, 0b00], script := [{ agent := .capture, arrivals := [0b10] }] }
    s.inadmissible = none ∧ s.fatal = false ∧ s.input.rst = false ∧ s.input.agent = .capture ∧
    (s.srcPairs ++ s.input.arrivals).length < 4 := by decide +kernel

theorem witness_HaltedBlockIsFrozen :
    let s := { State.reset with fatal := true, fatalCause := 4, script := [turnOf .dispatch] }
    s.fatal = true ∧ s.inadmissible = none ∧ s.input.rst = false := by decide +kernel

theorem witness_RstRestoresRegisters :
    (let s := { State.reset with fatal := true, fatalCause := 1, handoff := [5], sel := 12,
                                 script := [{ agent := .capture, rst := true }] }
     s.inadmissible = none ∧ s.input.rst = true ∧ s.input.sourceCleared = false) ∧
    (let s := { State.reset with srcOverrun := true, srcPairs := [0b10],
                                 script := [{ agent := .dispatch, rst := true, sourceCleared := true }] }
     s.inadmissible = none ∧ s.input.rst = true ∧ s.input.sourceCleared = true) := by decide +kernel

/-- A turn of each agent that answers next. -/
theorem witness_AgentsKeepToTheirState :
    (∃ t, step { State.reset with script := [turnOf .capture] } = .next t) ∧
    (∃ t, step { State.reset with script := [turnOf .dispatch] } = .next t) ∧
    (turnOf .capture).rst = false ∧ (turnOf .dispatch).rst = false := by
  refine ⟨⟨_, next_after (by decide +kernel)⟩, ⟨_, next_after (by decide +kernel)⟩, rfl, rfl⟩

theorem witness_StepKeepsConstantMemories : ∃ t, step { State.reset with script := [turnOf .dispatch] } = .next t :=
  ⟨_, next_after (by decide +kernel)⟩

/-- A lost transition halts the capture agent; a second block read halts the dispatch agent. -/
theorem witness_FatalCausesHaveTheirAgent :
    (let s := { State.reset with srcPairs := samplePairs .oldestHigh 0x88, srcOverrun := true, script := [turnOf .capture] }
     s.fatal = false ∧ (after (step s)).fatal = true ∧ (after (step s)).fatalCause = 2) ∧
    (let s := { published [0x02, 0x00, 0x01, 0x0B, 0x00, 0x00, 0x00, 0x02, 0x00, 0x00, 0x00, 0x05, 0x0F] with
                  readOutstanding := true }
     s.fatal = false ∧ (after (step s)).fatal = true ∧ (after (step s)).fatalCause = 4) := by decide +kernel

/-- The reset state before a dispatch turn, and its next state: the hypotheses of StepKeepsLegalState, StepKeepsMemoriesFit and
StepKeepsCursorInvariants. -/
theorem witness_invariants :
    let s := { State.reset with script := [turnOf .dispatch] }
    LegalState s ∧ MemoriesFit s ∧ CursorInv s ∧ ChecksumInv s ∧ ∃ t, step s = .next t := by
  refine ⟨⟨by decide +kernel, by decide, by decide, by decide, by decide +kernel, by decide, by decide, by decide, rfl, by decide, by decide⟩,
    ⟨Memory.wf_nil, Memory.wf_nil, by decide, by decide⟩, ⟨rfl, by decide, by decide, rfl, by decide, by decide⟩,
    ⟨by decide, rfl⟩, _, next_after (by decide +kernel)⟩

/-- The published packet of M1 before a capture turn: cursor 0 lies in a run that is still published after it. -/
theorem witness_StepKeepsPublishedPacketsGood :
    let s := { State.reset with
      ring := [(2, 0x20), (3, 0x01), (4, 0x21)], handoff := [5], wr := 5, pstart := 5, script := [turnOf .capture] }
    MemoriesFit s ∧ CursorInv s ∧ ChecksumInv s ∧ s.input.rst = false ∧
    ∃ t, step s = .next t ∧ cursorSub s.cfg.cursorW 0 t.rd < cursorSub s.cfg.cursorW s.pstart t.rd :=
  ⟨⟨by decide, by decide, by decide, by decide⟩, ⟨rfl, by decide, by decide, rfl, by decide, by decide⟩,
    ⟨by decide +kernel, by decide +kernel, rfl⟩, rfl, _, next_after (by decide +kernel), by decide +kernel⟩

theorem witness_StorageRoundTrip :
    Memory.wf [] ∧ (List.replicate 32 (1 : Word)).length = 32 ∧ (List.replicate 32 (2 : Word)).length = 32 ∧
    (List.replicate 32 (3 : Word)).length = 32 ∧ (List.replicate 32 (4 : Word)).length = 32 :=
  ⟨Memory.wf_nil, rfl, rfl, rfl, rfl⟩

theorem witness_ChecksumByteForm :
    xorWords [0x01020304, 0xFF0000FF] = be32 0xFE 0x02 0x03 0xFB ∧ cks [0x01020304, 0xFF0000FF] = 0x04FAF8FB := by
  decide +kernel

theorem witness_OrTableCoversEveryWalk :
    8 < refGraph.cells.length ∧ ((0x80 : Byte), (0x00 : Byte)) ∈ refOrTable ∧
    (compile .oldestHigh refGraph 8 0xB8).pair = (0x80, 0x00) := by
  decide +kernel

end Sys2Proof.Tests
end

/-! SUPPORT. The table builder on the reference graph (40_table_builder R133 to R149), and what a step refuses before any turn
runs; with them the builder's verdict and the reset state are settled. -/

namespace Sys2Proof.Machine

-- The kernel evaluates the tables of the reference graph one after another: begun all at once they need more threads than a
-- checker has.
set_option Elab.async false

open Config (Edge Graph PairOrder)

/-! ### Lists grown by what they lack -/

section FirstOccurrences

variable {α β : Type} [DecidableEq α] [DecidableEq β]

/-- Append an element the list lacks: one step of `TB.DEDUP` on its own (R147). -/
def addNew (tab : List α) (x : α) : List α := if x ∈ tab then tab else tab ++ [x]

/-- Append, in order, the elements the list lacks. -/
def addAll (tab xs : List α) : List α := xs.foldl addNew tab

theorem addNew_of_mem {tab : List α} {x : α} (h : x ∈ tab) : addNew tab x = tab := if_pos h

theorem addNew_of_notMem {tab : List α} {x : α} (h : x ∉ tab) : addNew tab x = tab ++ [x] := if_neg h

@[simp] theorem addAll_nil (tab : List α) : addAll tab [] = tab := rfl

@[simp] theorem addAll_cons (tab : List α) (x : α) (xs : List α) : addAll tab (x :: xs) = addAll (addNew tab x) xs := rfl

theorem addAll_append (tab xs ys : List α) : addAll tab (xs ++ ys) = addAll (addAll tab xs) ys :=
  List.foldl_append

theorem mem_addNew {tab : List α} {x y : α} : y ∈ addNew tab x ↔ y ∈ tab ∨ y = x := by
  by_cases hx : x ∈ tab
  · rw [addNew_of_mem hx]
    exact ⟨.inl, fun h => h.elim id fun e => e ▸ hx⟩
  · simp [addNew_of_notMem hx]

theorem mem_addAll {tab xs : List α} {y : α} : y ∈ addAll tab xs ↔ y ∈ tab ∨ y ∈ xs := by
  induction xs generalizing tab with
  | nil => simp
  | cons x xs ih => rw [addAll_cons, ih, mem_addNew, List.mem_cons, or_assoc]

theorem addAll_of_subset {tab xs : List α} (h : ∀ x ∈ xs, x ∈ tab) : addAll tab xs = tab := by
  induction xs with
  | nil => rfl
  | cons x xs ih =>
    rw [addAll_cons, addNew_of_mem (h x List.mem_cons_self)]
    exact ih fun y hy => h y (List.mem_cons_of_mem _ hy)

/-- Dropping the repetitions of a list first changes nothing of what its elements contribute. -/
theorem addAll_flatMap_addAll (f : α → List β) (tab : List β) (seen xs : List α) :
    addAll tab ((addAll seen xs).flatMap f) = addAll (addAll tab (seen.flatMap f)) (xs.flatMap f) := by
  induction xs generalizing seen with
  | nil => rfl
  | cons x xs ih =>
    rw [addAll_cons, ih, List.flatMap_cons, addAll_append]
    congr 1
    by_cases hx : x ∈ seen
    · have hold : ∀ y ∈ f x, y ∈ addAll tab (seen.flatMap f) := fun y hy =>
        mem_addAll.mpr (.inr (List.mem_flatMap.mpr ⟨x, hx, hy⟩))
      rw [addNew_of_mem hx, addAll_of_subset hold]
    · simp [addNew_of_notMem hx, addAll_append]

end FirstOccurrences

/-! ### The walks of a state, without repetition

The 256 walks from a state share their beginnings, and most end alike: four rounds that drop repetitions leave at most
seventeen walks of each reference state, in the order in which the bytes first make them. -/

/-- The values of a pair. -/
def allPairs : List Pair := [0, 1, 2, 3]

theorem mem_allPairs (v : Pair) : v ∈ allPairs := by revert v; decide

/-- The lists of `k` pairs, in the order of the numbers they spell. -/
def pairLists : Nat → List (List Pair)
  | 0 => [[]]
  | k + 1 => (pairLists k).flatMap fun vs => allPairs.map fun v => vs ++ [v]

/-- Bytes upward are the lists of four pairs in order (30_encoding R92). -/
theorem samplePairs_range : (List.range 256).map (fun b => samplePairs .oldestHigh (BitVec.ofNat 8 b)) = pairLists 4 := by
  decide +kernel

/-- A walk gone on with each pair. -/
def nextWalks (g : Graph) (w : Walk) : List Walk := allPairs.map (micro g w)

/-- The different walks of `k` pairs from state `s`, in the order of their first pair lists. -/
def walksFrom (g : Graph) (s : Nat) : Nat → List Walk
  | 0 => [{ st := s }]
  | k + 1 => addAll [] ((walksFrom g s k).flatMap (nextWalks g))

/-- `walksFrom` lists what `TB.MICRO` makes of all pair lists, up to repetitions. -/
theorem addAll_walksFrom {β : Type} [DecidableEq β] (g : Graph) (s k : Nat) (f : Walk → List β) (tab : List β) :
    addAll tab ((walksFrom g s k).flatMap f) =
      addAll tab ((pairLists k).flatMap fun vs => f (vs.foldl (micro g) { st := s })) := by
  induction k generalizing f with
  | zero => rfl
  | succ k ih =>
    calc addAll tab ((walksFrom g s (k + 1)).flatMap f)
        = addAll tab ((walksFrom g s k).flatMap fun w => (nextWalks g w).flatMap f) := by
          rw [walksFrom, addAll_flatMap_addAll, List.flatMap_assoc, List.flatMap_nil, addAll_nil]
      _ = addAll tab ((pairLists (k + 1)).flatMap fun vs => f (vs.foldl (micro g) { st := s })) := by
          rw [ih, pairLists, List.flatMap_assoc]
          simp [nextWalks, List.flatMap_map]

/-- Every compiled walk is among them. -/
theorem compile_mem_walksFrom (g : Graph) (s : Nat) (b : Byte) : compile .oldestHigh g s b ∈ walksFrom g s 4 := by
  have hvs : samplePairs .oldestHigh b ∈ pairLists 4 := by
    rw [← samplePairs_range]
    exact List.mem_map.mpr ⟨b.toNat, List.mem_range.mpr b.isLt, by simp⟩
  have hmem : compile .oldestHigh g s b ∈ addAll [] ((walksFrom g s 4).flatMap fun w => [w]) := by
    rw [addAll_walksFrom]
    exact mem_addAll.mpr (.inr (List.mem_flatMap.mpr ⟨_, hvs, List.mem_singleton.mpr rfl⟩))
  simpa [mem_addAll] using hmem

theorem dedupStep_eq (o : PairOrder) (g : Graph) (s : Nat) (tab : List (Byte × Byte)) (b : Nat) :
    dedupStep o g s tab b = addNew tab (compile o g s (BitVec.ofNat 8 b)).pair := by
  simp [dedupStep, addNew]

/-- `TB.DEDUP` over the bytes of one state needs only the different walks of the state. -/
theorem dedupState_eq (g : Graph) (tab : List (Byte × Byte)) (s : Nat) :
    dedupState .oldestHigh g tab s = addAll tab ((walksFrom g s 4).map Walk.pair) := by
  calc dedupState .oldestHigh g tab s
      = addAll tab ((List.range 256).map fun b => (compile .oldestHigh g s (BitVec.ofNat 8 b)).pair) := by
        rw [dedupState, funext₂ (dedupStep_eq .oldestHigh g s), addAll, List.foldl_map]
    _ = addAll tab ((pairLists 4).map fun vs => (vs.foldl (micro g) { st := s }).pair) := by
        rw [← samplePairs_range, List.map_map]; rfl
    _ = addAll tab ((walksFrom g s 4).map Walk.pair) := by
        simpa only [List.map_eq_flatMap] using (addAll_walksFrom g s 4 (fun w => [w.pair]) tab).symm

/-! ### The OR table and the flags of the reference graph -/

/-- How many rows of the reference OR table the states below `s` have made. -/
def rowsBefore (s : Nat) : Nat :=
  ([1, 1, 1, 1, 1, 1, 1, 1, 2, 2, 3, 3, 4, 4, 4, 6, 6, 6, 8, 8, 8, 10, 10, 10, 12, 12, 12, 14, 14, 14, 16, 16, 16, 18, 18,
    18, 18][s]?).getD 0

theorem refGraph_rows_of_state : ∀ s < 36,
    addAll (refOrTable.take (rowsBefore s)) ((walksFrom refGraph s 4).map Walk.pair) =
      refOrTable.take (rowsBefore (s + 1)) := by
  decide +kernel

theorem dedup_refGraph_below {n : Nat} (hn : n ≤ 36) :
    (List.range n).foldl (dedupState .oldestHigh refGraph) [(0, 0)] = refOrTable.take (rowsBefore n) := by
  induction n with
  | zero => rfl
  | succ n ih =>
    rw [List.range_succ, List.foldl_append, ih (by omega), List.foldl_cons, List.foldl_nil, dedupState_eq]
    exact refGraph_rows_of_state n (by omega)

/-- `TB.DEDUP` of the reference graph gives the rows listed in R147. -/
theorem dedup_refGraph : dedup .oldestHigh refGraph = refOrTable := dedup_refGraph_below (le_refl 36)

theorem refGraph_walk_flags : ∀ s < 36, ∀ w ∈ walksFrom refGraph s 4, w.flags ∈ refFlags := by decide +kernel

/-- A state and a byte for each flag combination of the reference table, in the order of `refFlags`. -/
def refFlagWalks : List (Nat × Byte) :=
  [(0, 0x00), (0, 0x09), (10, 0x74), (12, 0x49), (6, 0x8B), (7, 0x2C), (27, 0x48), (29, 0x20), (33, 0x74)]

theorem refFlagWalks_flags : refFlagWalks.map (fun c => (compile .oldestHigh refGraph c.1 c.2).flags) = refFlags := by
  decide +kernel

theorem flagsOccur_iff {o : PairOrder} {g : Graph} {f : Bool × Bool × Bool × Bool} :
    flagsOccur o g f = true ↔ ∃ s < g.cells.length, ∃ b : Byte, (compile o g s b).flags = f := by
  simp only [flagsOccur, List.any_eq_true, List.mem_range, beq_iff_eq]
  constructor
  · rintro ⟨s, hs, b, -, hf⟩
    exact ⟨s, hs, _, hf⟩
  · rintro ⟨s, hs, b, hf⟩
    exact ⟨s, hs, b.toNat, b.isLt, by rwa [BitVec.ofNat_toNat, BitVec.setWidth_eq]⟩

/-- The flag combinations listed for the reference graph are those of its compiled table (30_encoding R98). -/
theorem flagsOccur_refGraph (f : Bool × Bool × Bool × Bool) :
    flagsOccur .oldestHigh refGraph f = refFlags.contains f := by
  rw [Bool.eq_iff_iff, flagsOccur_iff, List.contains_iff_mem]
  constructor
  · rintro ⟨s, hs, b, rfl⟩
    exact refGraph_walk_flags s hs _ (compile_mem_walksFrom refGraph s b)
  · intro hf
    rw [← refFlagWalks_flags] at hf
    obtain ⟨c, hc, rfl⟩ := List.mem_map.mp hf
    have hstates : ∀ c ∈ refFlagWalks, c.1 < refGraph.cells.length := by decide
    exact ⟨c.1, hstates c hc, c.2, rfl⟩

/-! ### The compile assertions

A Push or an End is followed by at least three edges without Push or Reset. A walk has four edges, so none of them comes late
(R146). -/

/-- From the state no walk of `k` edges carries Push or Reset. -/
def quietFor (g : Graph) : Nat → Nat → Bool
  | 0, _ => true
  | k + 1, s => allPairs.all fun v =>
      !(edgeT g s v).edge.push && !(edgeT g s v).edge.reset && quietFor g k (edgeT g s v).edge.next

/-- Each edge that carries Push or End leads to a state that is quiet for three edges. -/
def PushesSpaced (g : Graph) : Prop :=
  ∀ (s : Nat) (v : Pair), (edgeT g s v).edge.push = true ∨ (edgeT g s v).edge.endFlag = true →
    quietFor g 3 (edgeT g s v).edge.next = true

theorem quietFor_succ {g : Graph} {k s : Nat} (h : quietFor g (k + 1) s = true) (v : Pair) :
    (edgeT g s v).edge.push = false ∧ (edgeT g s v).edge.reset = false ∧ quietFor g k (edgeT g s v).edge.next = true := by
  simpa [and_assoc] using List.all_eq_true.mp h v (mem_allPairs v)

theorem walkEdges_quiet {g : Graph} {k s : Nat} {vs : List Pair} (h : quietFor g k s = true) (hk : vs.length ≤ k) :
    ∀ e ∈ walkEdges g s vs, e.push = false ∧ e.reset = false := by
  induction vs generalizing k s with
  | nil => simp [walkEdges]
  | cons v vs ih =>
    obtain ⟨k, rfl⟩ : ∃ n, k = n + 1 := ⟨k - 1, by simp at hk; omega⟩
    obtain ⟨hpush, hreset, hnext⟩ := quietFor_succ h v
    intro e he
    rcases List.mem_cons.mp he with rfl | he
    · exact ⟨hpush, hreset⟩
    · exact ih hnext (Nat.le_of_succ_le_succ hk) e he

section Spaced

variable {g : Graph} {s : Nat} {v : Pair} {vs : List Pair}

/-- Behind a Push or an End the rest of a walk carries neither Push nor Reset. -/
theorem PushesSpaced.rest_quiet (h : PushesSpaced g) (hk : (v :: vs).length ≤ 4)
    (he : (edgeT g s v).edge.push = true ∨ (edgeT g s v).edge.endFlag = true) :
    ∀ e ∈ walkEdges g (edgeT g s v).edge.next vs, e.push = false ∧ e.reset = false :=
  walkEdges_quiet (h s v he) (Nat.le_of_succ_le_succ hk)

/-- Assertion (1): at most one Push. -/
theorem PushesSpaced.one_push (h : PushesSpaced g) (hk : vs.length ≤ 4) :
    ((walkEdges g s vs).filter fun e => e.push).length ≤ 1 := by
  induction vs generalizing s with
  | nil => simp [walkEdges]
  | cons v vs ih =>
    by_cases hp : (edgeT g s v).edge.push = true
    · have hrest : ((walkEdges g (edgeT g s v).edge.next vs).filter fun e => e.push) = [] :=
        List.filter_eq_nil_iff.mpr fun e he => by simp [(h.rest_quiet hk (.inl hp) e he).1]
      simp [walkEdges, hp, hrest]
    · simpa [walkEdges, hp] using ih (Nat.le_of_succ_le hk)

/-- Assertions (2) and (3): a flag that comes only with Push or Reset never stands after one that comes only with Push or
End. -/
theorem PushesSpaced.neverAfter {late early : Edge → Bool} (h : PushesSpaced g) (hk : vs.length ≤ 4)
    (hlate : ∀ e, late e = true → e.push = true ∨ e.reset = true)
    (hearly : ∀ e, early e = true → e.push = true ∨ e.endFlag = true) :
    neverAfter late early (walkEdges g s vs) = true := by
  induction vs generalizing s with
  | nil => rfl
  | cons v vs ih =>
    rw [walkEdges, Machine.neverAfter, Bool.and_eq_true]
    refine ⟨?_, ih (Nat.le_of_succ_le hk)⟩
    cases he : early (edgeT g s v).edge with
    | false => rfl
    | true =>
      refine List.all_eq_true.mpr fun e hmem => ?_
      obtain ⟨hpush, hreset⟩ := h.rest_quiet hk (hearly _ he) e hmem
      cases hl : late e with
      | false => rfl
      | true => simpa [hpush, hreset] using hlate e hl

end Spaced

/-- Only a walk that has pushed gathers bits for the byte after the pushed one. -/
theorem micro_nxt {g : Graph} {w : Walk} (v : Pair) (h : w.push = true ∨ w.nxt = 0) :
    (micro g w v).push = true ∨ (micro g w v).nxt = 0 := by
  by_cases hp : w.push = true
  · left
    by_cases hr : (edgeT g w.st v).edge.reset = true <;> simp [micro, Walk.onReset, Walk.onBit, hp, hr]
  · right
    have hn : w.nxt = 0 := h.resolve_left hp
    by_cases hr : (edgeT g w.st v).edge.reset = true <;> simp [micro, Walk.onReset, Walk.onBit, hp, hr, hn]

/-- Assertion (4), of any graph. -/
theorem compile_nxt (o : PairOrder) (g : Graph) (s : Nat) (b : Byte) :
    (compile o g s b).push = true ∨ (compile o g s b).nxt = 0 := by
  have hfold : ∀ (vs : List Pair) (w : Walk), w.push = true ∨ w.nxt = 0 →
      (vs.foldl (micro g) w).push = true ∨ (vs.foldl (micro g) w).nxt = 0 := by
    intro vs
    induction vs with
    | nil => exact fun _ h => h
    | cons v vs ih => exact fun w h => ih _ (micro_nxt v h)
  exact hfold _ _ (.inr rfl)

theorem samplePairs_length (o : PairOrder) (b : Byte) : (samplePairs o b).length = 4 := by cases o <;> rfl

theorem PushesSpaced.walksLegal {g : Graph} (h : PushesSpaced g) (o : PairOrder) : walksLegal o g = true := by
  have hwalk : ∀ (s : Nat) (b : Byte), walkLegal o g s b = true := by
    intro s b
    have hk : (samplePairs o b).length ≤ 4 := (samplePairs_length o b).le
    simp only [walkLegal, Bool.and_eq_true, decide_eq_true_eq, Bool.or_eq_true, beq_iff_eq]
    exact ⟨⟨⟨h.one_push hk, h.neverAfter hk (fun _ => .inr) fun _ he => by simpa using he⟩,
      h.neverAfter hk (fun _ => .inl) fun _ => .inr⟩, compile_nxt o g s b⟩
  exact List.all_eq_true.mpr fun s _ => List.all_eq_true.mpr fun b _ => hwalk s _

theorem edgeT_outside {g : Graph} {s : Nat} (h : g.cells.length ≤ s) (v : Pair) : edgeT g s v = errorEdge g := by
  simp [edgeT, List.getElem?_eq_none h]

theorem pushesSpaced_refGraph : PushesSpaced refGraph := by
  have hinside : ∀ s < 36, ∀ v ∈ allPairs, (edgeT refGraph s v).edge.push = true ∨ (edgeT refGraph s v).edge.endFlag = true →
      quietFor refGraph 3 (edgeT refGraph s v).edge.next = true := by decide +kernel
  intro s v he
  by_cases hs : s < 36
  · exact hinside s hs v (mem_allPairs v) he
  · rw [edgeT_outside (Nat.not_lt.mp hs)] at he
    simp [errorEdge] at he

/-! ### The builder's verdict -/

theorem isReference_iff {p : Config.Params} : isReference p = true ↔ p.pairOrder = .oldestHigh ∧ p.graph = refGraph := by
  simp [isReference]

/-- The reference graph in the default pair order can fail only for its numbers of states and rows (R6). -/
theorem graphError_of_reference {p : Config.Params} (h : isReference p = true) :
    graphError p =
      if 2 ^ p.stateW < 36 then some .tooManyStates else if 2 ^ p.oridxW < 18 then some .tooManyRows else none := by
  obtain ⟨horder, hgraph⟩ := isReference_iff.mp h
  have htargets : allEdges refGraph (fun e => decide (e.next < 36)) = true := by decide
  have hmasks : allEdges refGraph (fun e => (e.setmask &&& (e.setmask - 1)) == 0) = true := by decide
  have hidle : refGraph.idle = 0 := rfl
  have hstates : p.numStates = 36 := congrArg (fun g => g.cells.length) hgraph
  have hrows : refOrTable.length = 18 := rfl
  simp only [graphError, horder, hgraph, hstates, hidle, htargets, hmasks, pushesSpaced_refGraph.walksLegal,
    dedup_refGraph, hrows, ne_eq, not_true_eq_false, OfNat.ofNat_ne_zero, or_self, if_false, Bool.not_true,
    Bool.false_eq_true]

/-- What is written down for the reference graph is what the builder computes (R143, R146). -/
theorem builderRefuses_eq (p : Config.Params) : builderRefuses p = graphError p := by
  by_cases h : isReference p = true
  · rw [builderRefuses, if_pos h, graphError_of_reference h]
  · rw [builderRefuses, if_neg h]

theorem orTable_eq (p : Config.Params) : orTable p = dedup p.pairOrder p.graph := by
  by_cases h : isReference p = true
  · obtain ⟨horder, hgraph⟩ := isReference_iff.mp h
    rw [orTable, if_pos h, horder, hgraph, dedup_refGraph]
  · rw [orTable, if_neg h]

theorem flagsLegal_eq (p : Config.Params) (f : Bool × Bool × Bool × Bool) :
    flagsLegal p f = flagsOccur p.pairOrder p.graph f := by
  by_cases h : isReference p = true
  · obtain ⟨horder, hgraph⟩ := isReference_iff.mp h
    rw [flagsLegal, if_pos h, horder, hgraph, flagsOccur_refGraph]
  · rw [flagsLegal, if_neg h]

theorem graphError_defaultParams : graphError defaultParams = none := by
  rw [graphError_of_reference (by decide)]; rfl

theorem buildTables_of_error {p : Config.Params} {e : BuildError} (h : graphError p = some e) :
    buildTables p = .error e := by
  simp only [buildTables, builderRefuses_eq, h]

theorem buildTables_of_accepted {p : Config.Params} (h : graphError p = none) : ∃ b, buildTables p = .ok b := by
  rcases buildTables_cases p with ⟨e, he, -⟩ | ⟨-, hb⟩
  · rw [builderRefuses_eq, h] at he
    cases he
  · exact ⟨_, hb⟩

/-! ### Lines exchanged -/

/-- A row with the cells of the pairs 01 and 10 exchanged reads at the exchanged pair as the row did. -/
theorem swapped_cell {α : Type} (c00 c01 c10 c11 : α) (v : Pair) :
    [c00, c10, c01, c11][(swapPair v).toNat]? = [c00, c01, c10, c11][v.toNat]? := by
  have hv := mem_allPairs v
  simp only [allPairs, List.mem_cons, List.not_mem_nil, or_false] at hv
  rcases hv with rfl | rfl | rfl | rfl <;> rfl

theorem refGraph_row {s : Nat} {row : List (Option Edge)} (h : refGraph.cells[s]? = some row) :
    ∃ c00 c01 c10 c11, row = [c00, c01, c10, c11] := by
  have hlen : ∀ row ∈ refGraph.cells, row.length = 4 := by decide
  have := hlen row (List.mem_of_getElem? h)
  match row, this with
  | [c00, c01, c10, c11], _ => exact ⟨c00, c01, c10, c11, rfl⟩

/-- With the lines of a pair exchanged the reference graph behaves alike. -/
theorem edgeT_swapPair (s : Nat) (v : Pair) : edgeT (graphFor .aHigh) s (swapPair v) = edgeT refGraph s v := by
  have hidle : errorEdge (graphFor .aHigh) = errorEdge refGraph := rfl
  unfold edgeT
  rw [hidle]
  cases hrow : refGraph.cells[s]? with
  | none => simp [graphFor, hrow]
  | some row =>
    obtain ⟨c00, c01, c10, c11, rfl⟩ := refGraph_row hrow
    simp [graphFor, hrow, swapped_cell]

/-! ### What a step refuses -/

theorem step_of_inadmissible {s : State} {r : Refusal} (h : s.inadmissible = some r) : step s = .refused r := by
  simp only [step, turn, h]

theorem step_refuses_graph {s : State} {e : BuildError} (hp : paramsLegal s.cfg = true) (he : graphError s.cfg = some e) :
    step s = .refused (.graphRefused e) := by
  apply step_of_inadmissible
  simp [State.inadmissible, hp, builderRefuses_eq, he]

/-- One listed entry the builder never makes is enough, wherever it stands in `TABLE` (R98). -/
theorem step_refuses_entry {s : State} {c : Nat × Nat} (hp : paramsLegal s.cfg = true) (hb : builderRefuses s.cfg = none)
    (ho : s.ortab = orTable s.cfg) (hc : c ∈ s.table) (he : entryLegal s.cfg (unpackTte s.cfg c.2) = false) :
    step s = .refused .reservedEntry := by
  have hlisted : s.table.all s.listedLegal = false := by
    rw [List.all_eq_false]
    exact ⟨c, hc, by simp [State.listedLegal, he]⟩
  apply step_of_inadmissible
  simp [State.inadmissible, hp, hb, ho, hlisted]

/-! ### The statements -/

/-- Settles O19: the reference graph is accepted by `graphError_defaultParams`, its rows are `dedup_refGraph`, and the answers
written down for it are those computed anew. -/
theorem referenceGraphIsAccepted : Obligations.ReferenceGraphIsAccepted := by
  refine ⟨graphError_defaultParams, rfl, dedup_refGraph, ?entryB4, ?entry1E, ?entry74, ?entry7E, edgeT_swapPair, fun p => ?_,
    fun _ _ => step_refuses_graph, fun _ _ => step_refuses_entry⟩
  case entryB4 => decide +kernel
  case entry1E => decide +kernel
  case entry74 => decide +kernel
  case entry7E => decide +kernel
  exact ⟨builderRefuses_eq p, orTable_eq p, flagsLegal_eq p, fun _ => buildTables_of_error, buildTables_of_accepted⟩

/-- The tables after reset are those the builder makes of the reference graph (R373). -/
theorem reset_referenceTables : ReferenceTables State.reset where
  graph := rfl
  built :=
    { accepted := (builderRefuses_eq defaultParams).trans graphError_defaultParams
      ortab := ((orTable_eq defaultParams).trans dedup_refGraph).symm
      table := rfl }

theorem reset_catalog : catalogWellFormed State.reset.cfg State.reset.tpl = true := by decide +kernel

/-- Settles O51: the registers by evaluation, the tables by the builder's verdict on the reference graph. -/
theorem resetStateHasItsValues : Obligations.ResetStateHasItsValues := by
  refine ⟨rfl, rfl, rfl, rfl, rfl, rfl, rfl, rfl, rfl, rfl, rfl, rfl, rfl, rfl, rfl, reset_referenceTables,
    dedup_refGraph.symm, reset_catalog, rfl, rfl, rfl, rfl, ?mask, ?codes⟩
  case mask => decide
  case codes => decide +kernel

end Sys2Proof.Machine

/-! SUPPORT. What one turn of the machine does and keeps: the turns of the two agents, what each agent leaves alone (10_state
R20), and the registers that stay legal (10_state R21 to R34, 20_memory R72, 42_ring_handoff R196). -/

namespace Sys2Proof.Machine

/-! ### What a state is admitted for -/

/-- The conditions a step tests before anything happens (`State.inadmissible`), under names. -/
structure Admissible (s : State) : Prop where
  params : paramsLegal s.cfg = true
  graph : builderRefuses s.cfg = none
  ortab : s.ortab = orTable s.cfg
  table : s.table.all s.listedLegal = true
  dstate : s.dstate < s.cfg.numStates
  selCount : s.sel.toNat < s.cfg.numSel
  selNamed : s.sel.toNat < selValues
  cause : s.fatalCause.toNat < 5
  causeNamed : s.fatal = true → s.fatalCause ≠ 0

theorem State.selLegal_iff {s : State} : s.selLegal = true ↔ s.sel.toNat < s.cfg.numSel ∧ s.sel.toNat < selValues := by
  simp only [State.selLegal, Bool.and_eq_true, decide_eq_true_eq]

theorem State.inadmissible_none_iff {s : State} : s.inadmissible = none ↔ Admissible s := by
  unfold State.inadmissible
  rw [ite_some_none]
  cases hg : builderRefuses s.cfg with
  | some e =>
    constructor
    · rintro ⟨-, h⟩; cases h
    · intro h; exact absurd (hg.symm.trans h.graph) nofun
  | none =>
    simp only [ite_some_none, Bool.not_eq_true', Bool.not_eq_false, Nat.not_le, ne_eq, not_not, State.selLegal_iff,
      Bool.or_eq_true, decide_eq_true_eq, Bool.and_eq_true, beq_iff_eq, not_or, not_and, and_true]
    constructor
    · rintro ⟨hp, ho, ht, hd, ⟨hn, hv⟩, hc, hf⟩
      exact ⟨hp, hg, ho, ht, hd, hn, hv, hc, hf⟩
    · intro h
      exact ⟨h.params, h.ortab, h.table, h.dstate, ⟨h.selCount, h.selNamed⟩, h.cause, h.causeNamed⟩

theorem State.drawAllowed_iff {s : State} {x : Nat} :
    s.drawAllowed x = true ↔
      x < 2 ^ s.cfg.cursorW ∧ 2 * cursorSub s.cfg.cursorW x s.rdSeen < 2 ^ s.cfg.cursorW ∧
        2 * cursorSub s.cfg.cursorW s.rdRelease x < 2 ^ s.cfg.cursorW := by
  simp only [State.drawAllowed, cursorLe, Bool.and_eq_true, decide_eq_true_eq, and_assoc]

theorem State.cursorsFit_iff {s : State} :
    s.CursorsFit ↔
      s.rdSeen < 2 ^ s.cfg.cursorW ∧ s.rdRelease < 2 ^ s.cfg.cursorW ∧ s.rd < 2 ^ s.cfg.cursorW ∧
        s.pstart < 2 ^ s.cfg.cursorW ∧ s.wr < 2 ^ s.cfg.cursorW ∧ ∀ c ∈ s.handoff, c < 2 ^ s.cfg.cursorW := by
  simp only [State.CursorsFit, State.cursors, List.forall_mem_cons]

/-! ### What the branching decode actions leave alone -/

@[simp] theorem State.actPush_cfg (s : State) (nxt : Byte) : (s.actPush nxt).cfg = s.cfg := by
  rcases s.actPush_cases nxt with ⟨-, h⟩ | ⟨-, h⟩ <;> simp [h]

@[simp] theorem State.actPush_rdSeen (s : State) (nxt : Byte) : (s.actPush nxt).rdSeen = s.rdSeen := by
  rcases s.actPush_cases nxt with ⟨-, h⟩ | ⟨-, h⟩ <;> simp [h]

@[simp] theorem State.actEnd_cfg (s : State) : s.actEnd.cfg = s.cfg := by
  rcases s.actEnd_cases with ⟨-, h⟩ | ⟨-, -, h⟩ | ⟨-, -, h⟩ <;> simp [h]

@[simp] theorem State.actEnd_rdSeen (s : State) : s.actEnd.rdSeen = s.rdSeen := by
  rcases s.actEnd_cases with ⟨-, h⟩ | ⟨-, -, h⟩ | ⟨-, -, h⟩ <;> simp [h]

@[simp] theorem State.overrunCheck_cfg (s : State) : s.overrunCheck.cfg = s.cfg := by
  rcases s.overrunCheck_cases with ⟨-, h⟩ | ⟨-, h⟩ <;> simp [h]

@[simp] theorem State.overrunCheck_rdSeen (s : State) : s.overrunCheck.rdSeen = s.rdSeen := by
  rcases s.overrunCheck_cases with ⟨-, h⟩ | ⟨-, h⟩ <;> simp [h]

/-! ### A response that is sent raises no fatal -/

@[simp] theorem State.muxBuild_fatal (s : State) (x : BitVec 4) (img : List Word) :
    (s.muxBuild x img).fatal = s.fatal := by
  unfold State.muxBuild
  cases s.dynRequest x <;> rfl

@[simp] theorem State.accept_fatal (s : State) (x : BitVec 4) : (s.accept x).fatal = s.fatal := rfl

/-! ### The turns of the agents -/

/-- Without reset an agent has its turn, and then the next input is due. -/
theorem step_of_unreset {s : State} (ha : s.inadmissible = none) (hr : s.input.rst = false) :
    step s = andThen (agentTurn s.intake) fun u => .next u.advance := by
  simp [step, turn, ha, hr]

theorem step_of_capture {s : State} (ha : s.inadmissible = none) (hf : s.fatal = false) (hr : s.input.rst = false)
    (hg : s.input.agent = .capture) : step s = andThen (captureTurn s.intake) fun u => .next u.advance := by
  have hturn : agentTurn s.intake = captureTurn s.intake := by simp [agentTurn, hf, hg]
  rw [step_of_unreset ha hr, hturn]

theorem step_of_dispatch {s : State} (ha : s.inadmissible = none) (hf : s.fatal = false) (hr : s.input.rst = false)
    (hg : s.input.agent = .dispatch) : step s = andThen (dispatchTurn s.intake) fun u => .next u.advance := by
  have hturn : agentTurn s.intake = dispatchTurn s.intake := by simp [agentTurn, hf, hg]
  rw [step_of_unreset ha hr, hturn]

theorem State.takeSample_of_four {s : State} {p0 p1 p2 p3 : Pair} {rest : List Pair}
    (h : s.srcPairs = p0 :: p1 :: p2 :: p3 :: rest) :
    s.takeSample = some (packSample s.cfg.pairOrder p0 p1 p2 p3, { s with srcPairs := rest }) := by
  simp only [State.takeSample, h]

theorem State.takeSample_of_short {s : State} (h : s.srcPairs.length < 4) : s.takeSample = none := by
  unfold State.takeSample
  split
  · next hs => rw [hs] at h; simp at h; omega
  · rfl

theorem captureTurn_of_four {s : State} {p0 p1 p2 p3 : Pair} {rest : List Pair}
    (h : s.srcPairs = p0 :: p1 :: p2 :: p3 :: rest) :
    captureTurn s = exec (.sample (packSample s.cfg.pairOrder p0 p1 p2 p3)) { s with srcPairs := rest } := by
  simp only [captureTurn, State.takeSample_of_four h]

theorem captureTurn_of_short {s : State} (h : s.srcPairs.length < 4) : captureTurn s = .next s := by
  simp only [captureTurn, State.takeSample_of_short h]

theorem dispatchTurn_of_built {s : State} (h : s.templatesBuilt = true) : dispatchTurn s = dispatchStep s := if_pos h

theorem dispatchTurn_of_unbuilt {s : State} (h : s.templatesBuilt = false) : dispatchTurn s = .next s := by
  simp [dispatchTurn, h]

theorem dispatchStep_of_empty {s : State} (h : s.handoff = []) :
    dispatchStep s = andThen (schedTry s) fun t => .next (t.reportIdle true) := by
  simp only [dispatchStep, h]

theorem schedTry_of_live {s : State} {i : Instr} (hf : s.fatal = false) (hi : decodeSel s.cfg s.sel = some i) :
    schedTry s = exec i s := by
  simp [schedTry, hf, hi]

theorem State.reportIdle_of_live {s : State} (h : s.fatal = false) (idle : Bool) :
    s.reportIdle idle = { s with idleOpportunity := idle } := by
  simp [State.reportIdle, h]

theorem decodeSel_of_decode {p : Config.Params} {x : BitVec 4} {i : Instr} (h : decode p (.sel x) = .ok i) :
    decodeSel p x = some i := by
  cases hd : decodeSel p x with
  | some j => simpa only [decode, hd, Except.ok.injEq, Option.some.injEq] using h
  | none => simp [decode, hd] at h

/-- Going on after an outcome depends only on what is done with the state it leads to. -/
theorem andThen_congr {r : Result} {f g : State → Result} (h : ∀ t, r = .next t → f t = g t) :
    andThen r f = andThen r g := by
  cases r with
  | next t => exact h t rfl
  | fault | refused => rfl

theorem andThen_assoc (r : Result) (f g : State → Result) :
    andThen (andThen r f) g = andThen r fun t => andThen (f t) g := by
  cases r <;> rfl

/-! ### The operation of a pending selector -/

/-- The operation a selector value names is `SCHED.TRY` for that value (45_response_mux R305, R311). -/
theorem exec_of_decodeSel {p : Config.Params} {x : BitVec 4} {i : Instr} (h : decodeSel p x = some i) (s : State) :
    exec i s = whenLive s (if x = selNothing then .next s else trySend x s) := by
  have hop : selOperation x = some i := by
    unfold decodeSel at h
    split at h
    · exact h
    · cases h
  have values : ∀ y : BitVec 4, y = 0 ∨ y = 1 ∨ y = 2 ∨ y = 3 ∨ y = 4 ∨ y = 5 ∨ y = 6 ∨ y = 7 ∨ y = 8 ∨ y = 9 ∨
      y = 10 ∨ y = 11 ∨ y = 12 ∨ y = 13 ∨ y = 14 ∨ y = 15 := by decide
  rcases values x with rfl | rfl | rfl | rfl | rfl | rfl | rfl | rfl | rfl | rfl | rfl | rfl | rfl | rfl | rfl | rfl <;>
    cases hop <;> rfl

/-- The operation of a pending selector raises no fatal, and the selector stays pending or is cleared. -/
theorem exec_decodeSel_keeps {p : Config.Params} {x : BitVec 4} {i : Instr} {s t : State} (h : decodeSel p x = some i)
    (ht : exec i s = .next t) : t.fatal = false ∧ (t.sel = s.sel ∨ t.sel = selNothing) := by
  rw [exec_of_decodeSel h, whenLive_next] at ht
  obtain ⟨hf, ht⟩ := ht
  split at ht
  · cases ht; exact ⟨hf, .inl rfl⟩
  · rcases trySend_next ht with rfl | ⟨img, -, -, rfl⟩
    · exact ⟨hf, .inl rfl⟩
    · exact ⟨by simpa using hf, .inr rfl⟩

/-! ### What the agents leave alone (10_state R20) -/

theorem SameCapture.refl (s : State) : SameCapture s s := ⟨rfl, rfl, rfl, rfl, rfl, rfl, rfl, rfl⟩

theorem SameCapture.trans {s t u : State} (h : SameCapture s t) (k : SameCapture t u) : SameCapture s u where
  dstate := k.dstate.trans h.dstate
  acc := k.acc.trans h.acc
  rxor := k.rxor.trans h.rxor
  wr := k.wr.trans h.wr
  pstart := k.pstart.trans h.pstart
  rdSeen := k.rdSeen.trans h.rdSeen
  errPulse := k.errPulse.trans h.errPulse
  ring := k.ring.trans h.ring

theorem SameDispatch.refl (s : State) : SameDispatch s s :=
  ⟨rfl, rfl, rfl, rfl, rfl, rfl, rfl, rfl, rfl, rfl, rfl, rfl, rfl, rfl, rfl, rfl, rfl, rfl⟩

theorem SameDispatch.trans {s t u : State} (h : SameDispatch s t) (k : SameDispatch t u) : SameDispatch s u where
  rd := k.rd.trans h.rd
  rdRelease := k.rdRelease.trans h.rdRelease
  raw := k.raw.trans h.raw
  rawlen := k.rawlen.trans h.rawlen
  oversize := k.oversize.trans h.oversize
  hcmd := k.hcmd.trans h.hcmd
  hdst := k.hdst.trans h.hdst
  horg := k.horg.trans h.horg
  hnw := k.hnw.trans h.hnw
  pw := k.pw.trans h.pw
  activePort := k.activePort.trans h.activePort
  sel := k.sel.trans h.sel
  readOutstanding := k.readOutstanding.trans h.readOutstanding
  readAddr := k.readAddr.trans h.readAddr
  readUnit := k.readUnit.trans h.readUnit
  out := k.out.trans h.out
  idleOpportunity := k.idleOpportunity.trans h.idleOpportunity
  envLog := k.envLog.trans h.envLog

/-- What a turn of the capture agent keeps: the dispatch agent's part, and every entry of the handoff in its place. -/
structure CaptureKeeps (s t : State) : Prop where
  dispatch : SameDispatch s t
  appends : s.handoff <+: t.handoff

theorem CaptureKeeps.refl (s : State) : CaptureKeeps s s := ⟨.refl s, List.prefix_rfl⟩

theorem CaptureKeeps.trans {s t u : State} (h : CaptureKeeps s t) (k : CaptureKeeps t u) : CaptureKeeps s u :=
  ⟨h.dispatch.trans k.dispatch, h.appends.trans k.appends⟩

/-- Two states that agree outside the capture registers and the handoff, which may have grown. -/
theorem CaptureKeeps.of_eq {s t : State}
    (h : t = { s with dstate := t.dstate, acc := t.acc, rxor := t.rxor, wr := t.wr, pstart := t.pstart
                      rdSeen := t.rdSeen, errPulse := t.errPulse, ring := t.ring, handoff := t.handoff
                      fatal := t.fatal, fatalCause := t.fatalCause })
    (hq : s.handoff <+: t.handoff) : CaptureKeeps s t :=
  ⟨(CaptureFrame.of_eq h).dispatch, hq⟩

theorem State.raiseFatal_captureKeeps (s : State) (code : BitVec 3) : CaptureKeeps s (s.raiseFatal code) :=
  .of_eq rfl List.prefix_rfl

theorem State.actPush_captureKeeps (s : State) (nxt : Byte) : CaptureKeeps s (s.actPush nxt) := by
  rcases s.actPush_cases nxt with ⟨-, h⟩ | ⟨-, h⟩ <;> rw [h]
  · exact s.raiseFatal_captureKeeps _
  · exact .of_eq rfl List.prefix_rfl

theorem State.actEnd_captureKeeps (s : State) : CaptureKeeps s s.actEnd := by
  rcases s.actEnd_cases with ⟨-, h⟩ | ⟨-, -, h⟩ | ⟨-, -, h⟩ <;> rw [h]
  · exact .refl s
  · exact s.raiseFatal_captureKeeps _
  · exact .of_eq rfl (List.prefix_append _ _)

theorem State.overrunCheck_captureKeeps (s : State) : CaptureKeeps s s.overrunCheck := by
  rcases s.overrunCheck_cases with ⟨-, h⟩ | ⟨-, h⟩ <;> rw [h]
  · exact .refl s
  · exact s.raiseFatal_captureKeeps _

theorem State.decStep_captureKeeps (s : State) (e : Tte) (row : Byte × Byte) : CaptureKeeps s (s.decStep e row) :=
  State.decStep_keeps (P := CaptureKeeps s) (.refl s)
    (next := fun _ h => h.trans (.of_eq rfl List.prefix_rfl))
    (reset := fun _ h => h.trans (.of_eq rfl List.prefix_rfl))
    (or := fun _ h => h.trans (.of_eq rfl List.prefix_rfl))
    (push := fun u h => h.trans (u.actPush_captureKeeps _))
    (endPkt := fun u h => h.trans u.actEnd_captureKeeps)
    (error := fun _ h => h.trans (.of_eq rfl List.prefix_rfl))
    (overrun := fun u h => h.trans u.overrunCheck_captureKeeps)

theorem execSample_captureKeeps {b : Byte} {s t : State} (h : execSample b s = .next t) : CaptureKeeps s t := by
  obtain ⟨-, e, row, -, -, -, rfl⟩ := execSample_next.mp h
  have hbegin : CaptureKeeps s s.beginDecoderStep := .of_eq rfl List.prefix_rfl
  exact hbegin.trans (s.beginDecoderStep.decStep_captureKeeps e row)

theorem captureTurn_keeps {s t : State} (h : captureTurn s = .next t) : CaptureKeeps s t := by
  rcases captureTurn_next h with ⟨-, rfl⟩ | ⟨p0, p1, p2, p3, rest, -, h⟩
  · exact .refl _
  · obtain ⟨hdispatch, hq⟩ := execSample_captureKeeps h
    have htaken : SameDispatch s { s with srcPairs := rest } := { SameDispatch.refl s with }
    exact ⟨htaken.trans hdispatch, hq⟩

/-- What a turn of the dispatch agent keeps: the capture agent's part, what the sample source holds, and the handoff but for
its oldest entry. -/
structure DispatchKeeps (s t : State) : Prop where
  capture : SameCapture s t
  srcPairs : t.srcPairs = s.srcPairs
  handoff : t.handoff = s.handoff ∨ t.handoff = s.handoff.tail

theorem DispatchKeeps.refl (s : State) : DispatchKeeps s s := ⟨.refl s, rfl, .inl rfl⟩

/-- Behind an operation that leaves the handoff alone the queue is as it was before it. -/
theorem DispatchKeeps.frame {s t u : State} (h : DispatchKeeps s t) (k : DispatchFrame t u) : DispatchKeeps s u where
  capture := h.capture.trans k.capture
  srcPairs := k.source.srcPairs.trans h.srcPairs
  handoff := by rw [k.handoff]; exact h.handoff

theorem DispatchKeeps.reportIdle {s t : State} (h : DispatchKeeps s t) (idle : Bool) :
    DispatchKeeps s (t.reportIdle idle) := by
  unfold State.reportIdle
  split
  · exact h
  · exact ⟨{ h.capture with }, h.srcPairs, h.handoff⟩

theorem State.copyOut_keeps {s : State} {endOff : Nat} {rest : List Nat} (hq : s.handoff = endOff :: rest) :
    DispatchKeeps s (s.copyOut endOff rest) := by
  have htail : rest = s.handoff.tail := by rw [hq]; rfl
  rcases Nat.lt_or_ge Config.pktMaxBytes (cursorSub s.cfg.cursorW endOff s.rd) with hl | hl
  · rw [s.copyOut_long rest hl]
    exact ⟨{ SameCapture.refl s with }, rfl, .inr htail⟩
  · rw [s.copyOut_short rest hl]
    exact ⟨{ SameCapture.refl s with }, rfl, .inr htail⟩

theorem DispatchKeeps.parsed {s t : State} (k : DispatchKeeps s t) (h : Word) (ws : List Word) :
    DispatchKeeps s (t.parsed h ws) :=
  ⟨{ k.capture with }, k.srcPairs, k.handoff⟩

theorem packetPart_keeps {s t : State} {endOff : Nat} {rest : List Nat} (hq : s.handoff = endOff :: rest)
    (h : packetPart s endOff rest = .next t) : DispatchKeeps s t := by
  have hcopied := State.copyOut_keeps hq
  rcases packetPart_next h with ⟨-, rfl⟩ | ⟨u, hu, h⟩
  · exact hcopied
  · obtain ⟨-, hd, ws, -, rfl⟩ := State.validate_some.mp hu
    exact (hcopied.parsed hd ws).frame (exec_dispatchEffect (State.pendingRequest_ofCapture _) h).2.frame

theorem schedTry_keeps {s t u : State} (k : DispatchKeeps s t) (h : schedTry t = .next u) : DispatchKeeps s u := by
  rcases schedTry_next h with ⟨-, rfl⟩ | ⟨-, i, hi, h⟩
  · exact k
  · exact k.frame (exec_dispatchEffect (decodeSel_ofCapture hi) h).2.frame

theorem dispatchTurn_keeps {s t : State} (h : dispatchTurn s = .next t) : DispatchKeeps s t := by
  rcases dispatchTurn_next h with ⟨-, rfl⟩ | ⟨-, h⟩
  · exact .refl _
  · rcases dispatchStep_next h with ⟨-, u, hu, rfl⟩ | ⟨endOff, rest, u, v, hq, hu, hv, rfl⟩
    · exact (schedTry_keeps (.refl s) hu).reportIdle true
    · exact (schedTry_keeps (packetPart_keeps hq hu) hv).reportIdle false

/-- Settles O52: each agent's turn leaves the other's part alone (`captureTurn_keeps`, `dispatchTurn_keeps`), and what the
sample source takes in before the turn and the bookkeeping after it touch neither part. -/
theorem agentsKeepToTheirState : Obligations.AgentsKeepToTheirState := by
  intro s t h hr
  have aroundDispatch : ∀ u : State, SameDispatch s.intake u → SameDispatch s u.advance := fun u k => { k with }
  have aroundCapture : ∀ u : State, SameCapture s.intake u → SameCapture s u.advance := fun u k => { k with }
  rcases (step_next h).2 with ⟨hrst, -⟩ | ⟨-, -, rfl⟩ | ⟨-, -, hg, u, hu, rfl⟩ | ⟨-, -, hg, u, hu, rfl⟩
  · exact absurd hrst (by simp [hr])
  · exact ⟨fun _ => ⟨aroundDispatch _ (.refl _), [], (List.append_nil _).symm⟩,
      fun _ => ⟨aroundCapture _ (.refl _), .inl rfl, rfl⟩⟩
  · obtain ⟨hdispatch, published, hq⟩ := captureTurn_keeps hu
    exact ⟨fun _ => ⟨aroundDispatch u hdispatch, published, hq.symm⟩, fun hd => by simp [hg] at hd⟩
  · obtain ⟨hcapture, hsrc, hq⟩ := dispatchTurn_keeps hu
    exact ⟨fun hc => by simp [hg] at hc, fun _ => ⟨aroundCapture u hcapture, hq, hsrc⟩⟩

/-! ### The copy of the release cursor (10_state R26) -/

/-- Only the start of a decoder step moves `rd_seen`. -/
theorem State.decStep_rdSeen (s : State) (e : Tte) (row : Byte × Byte) : (s.decStep e row).rdSeen = s.rdSeen :=
  State.decStep_keeps (P := fun u => u.rdSeen = s.rdSeen) rfl (next := fun _ h => h) (reset := fun _ h => h)
    (or := fun _ h => h) (push := fun u h => (u.actPush_rdSeen _).trans h)
    (endPkt := fun u h => u.actEnd_rdSeen.trans h) (error := fun _ h => h)
    (overrun := fun u h => u.overrunCheck_rdSeen.trans h)

/-- Settles O14: `rd_seen` after the step is that of its start (`State.decStep_rdSeen`), which takes the draw exactly when it
is allowed. -/
theorem releaseCopyStaysInRange : Obligations.ReleaseCopyStaysInRange := by
  intro b s t h
  obtain ⟨-, e, row, -, -, -, rfl⟩ := execSample_next.mp h
  rw [State.decStep_rdSeen, State.beginDecoderStep_rdSeen]
  split
  · next hd => exact ⟨.inr ⟨rfl, State.drawAllowed_iff.mp hd⟩, fun _ _ _ => rfl⟩
  · next hd => exact ⟨.inl rfl, fun hw hs hr => absurd (State.drawAllowed_iff.mpr ⟨hw, hs, hr⟩) hd⟩

/-! ### Turns of a live block -/

/-- Settles O45: with four transitions at hand the capture turn is `exec` of the byte they make. -/
theorem stepRunsSampledByte : Obligations.StepRunsSampledByte := by
  intro s p0 p1 p2 p3 rest i ha hf hr hg hpairs hi
  obtain rfl : Instr.sample (packSample s.cfg.pairOrder p0 p1 p2 p3) = i := Except.ok.inj hi
  rw [step_of_capture ha hf hr hg, captureTurn_of_four (s := s.intake) hpairs]
  rfl

/-- Settles O48: with fewer than four transitions at hand there is no sample byte to take. -/
theorem captureWaitsForFourPairs : Obligations.CaptureWaitsForFourPairs := by
  intro s ha hf hr hg hshort
  rw [step_of_capture ha hf hr hg, captureTurn_of_short (s := s.intake) hshort]
  rfl

/-- Settles O47: with an empty handoff the dispatch step is the scheduler alone, and the idle output is raised because a
selector's operation raises no fatal (`exec_decodeSel_keeps`). -/
theorem stepServesSelector : Obligations.StepServesSelector := by
  intro s ha hf hr hg
  rw [step_of_dispatch ha hf hr hg]
  constructor
  · intro i hbuilt hq hi
    have hi : decodeSel s.intake.cfg s.intake.sel = some i := decodeSel_of_decode hi
    rw [dispatchTurn_of_built (s := s.intake) hbuilt, dispatchStep_of_empty (s := s.intake) hq,
      schedTry_of_live (s := s.intake) hf hi, andThen_assoc]
    refine andThen_congr fun t ht => ?_
    rw [State.reportIdle_of_live (exec_decodeSel_keeps hi ht).1]
    rfl
  · intro hbuilt
    rw [dispatchTurn_of_unbuilt (s := s.intake) hbuilt]
    rfl

/-! ### Legal states -/

/-- Two states that agree on what a legal state is about: the scratch, the memories, the sample source and the bookkeeping
may differ. -/
theorem LegalState.of_eq {s t : State} (hs : LegalState s)
    (h : t = { s with acc := t.acc, rxor := t.rxor, errPulse := t.errPulse, ring := t.ring, raw := t.raw
                      oversize := t.oversize, hcmd := t.hcmd, hnw := t.hnw, activePort := t.activePort
                      readAddr := t.readAddr, out := t.out, idleOpportunity := t.idleOpportunity
                      srcPairs := t.srcPairs, srcOverrun := t.srcOverrun, envLog := t.envLog, script := t.script
                      tick := t.tick }) : LegalState t := by
  rw [h]
  exact { hs with }

theorem LegalState.admitted {s : State} (hs : LegalState s) : Admissible s := State.inadmissible_none_iff.mp hs.admissible

/-- A fatal with one of the causes of 60_exceptions R331. -/
theorem LegalState.raiseFatal {s : State} (hs : LegalState s) {code : BitVec 3} (hc : code.toNat < 5) (h0 : code ≠ 0) :
    LegalState (s.raiseFatal code) := by
  have ha := hs.admitted
  have hcause : (s.raiseFatal code).fatalCause.toNat < 5 ∧ (s.raiseFatal code).fatalCause ≠ 0 := by
    rw [State.raiseFatal_fatalCause]
    split
    · next hf => exact ⟨ha.cause, ha.causeNamed hf⟩
    · exact ⟨hc, h0⟩
  exact { hs with
    admissible := State.inadmissible_none_iff.mpr { ha with cause := hcause.1, causeNamed := fun _ => hcause.2 }
    cause := nofun }

/-! #### The decoder step -/

theorem LegalState.actNext {s : State} (hs : LegalState s) {next : Nat} (hn : next < s.cfg.numStates) :
    LegalState (s.actNext next) :=
  { hs with admissible := State.inadmissible_none_iff.mpr { hs.admitted with dstate := hn } }

theorem LegalState.actReset {s : State} (hs : LegalState s) : LegalState s.actReset := by
  obtain ⟨hseen, hrelease, hrd, hstart, -, hq⟩ := State.cursorsFit_iff.mp hs.fit
  exact { hs with fit := State.cursorsFit_iff.mpr ⟨hseen, hrelease, hrd, hstart, hstart, hq⟩ }

theorem LegalState.actPush {s : State} (hs : LegalState s) (nxt : Byte) : LegalState (s.actPush nxt) := by
  rcases s.actPush_cases nxt with ⟨-, h⟩ | ⟨-, h⟩ <;> rw [h]
  · exact hs.raiseFatal (by decide) (by decide)
  · obtain ⟨hseen, hrelease, hrd, hstart, -, hq⟩ := State.cursorsFit_iff.mp hs.fit
    exact { hs with fit := State.cursorsFit_iff.mpr ⟨hseen, hrelease, hrd, hstart, cursorAdd_lt _ _ _, hq⟩ }

theorem LegalState.actEnd {s : State} (hs : LegalState s) : LegalState s.actEnd := by
  rcases s.actEnd_cases with ⟨-, h⟩ | ⟨-, -, h⟩ | ⟨-, hroom, h⟩ <;> rw [h]
  · exact hs
  · exact hs.raiseFatal (by decide) (by decide)
  · obtain ⟨hseen, hrelease, hrd, -, hwr, hq⟩ := State.cursorsFit_iff.mp hs.fit
    have hq' : ∀ c ∈ s.handoff ++ [s.wr], c < 2 ^ s.cfg.cursorW := by
      simpa [or_imp, forall_and] using ⟨hq, hwr⟩
    have hdepth : (s.handoff ++ [s.wr]).length ≤ s.cfg.handoffDepth := by
      simpa using Nat.lt_of_le_of_ne hs.depth hroom
    exact { hs with
      depth := hdepth
      fit := State.cursorsFit_iff.mpr ⟨hseen, hrelease, hrd, alignUp_lt _ _ _, hwr, hq'⟩
      aligned := ⟨hs.aligned.1, alignUp_mod _ _ _⟩ }

theorem LegalState.overrunCheck {s : State} (hs : LegalState s) : LegalState s.overrunCheck := by
  rcases s.overrunCheck_cases with ⟨-, h⟩ | ⟨-, h⟩ <;> rw [h]
  · exact hs
  · exact hs.raiseFatal (by decide) (by decide)

theorem LegalState.beginDecoderStep {s : State} (hs : LegalState s) : LegalState s.beginDecoderStep := by
  obtain ⟨hseen, hrelease, hrd, hstart, hwr, hq⟩ := State.cursorsFit_iff.mp hs.fit
  have hseen' : s.beginDecoderStep.rdSeen < 2 ^ s.cfg.cursorW := by
    rw [State.beginDecoderStep_rdSeen]
    split
    · next hd => exact (State.drawAllowed_iff.mp hd).1
    · exact hseen
  exact { hs with fit := State.cursorsFit_iff.mpr ⟨hseen', hrelease, hrd, hstart, hwr, hq⟩ }

/-- A decoder step by an entry whose next state is one of the graph's. -/
theorem LegalState.decStep {s : State} {e : Tte} (hs : LegalState s) (hn : e.next < s.cfg.numStates) (row : Byte × Byte) :
    LegalState (s.decStep e row) := by
  have hkeeps : LegalState (s.decStep e row) ∧ (s.decStep e row).cfg = s.cfg :=
    State.decStep_keeps (P := fun u => LegalState u ∧ u.cfg = s.cfg) ⟨hs, rfl⟩
      (next := fun _ ⟨hu, hc⟩ => ⟨hu.actNext (hc ▸ hn), hc⟩)
      (reset := fun _ ⟨hu, hc⟩ => ⟨hu.actReset, hc⟩)
      (or := fun _ ⟨hu, hc⟩ => ⟨hu.of_eq rfl, hc⟩)
      (push := fun u ⟨hu, hc⟩ => ⟨hu.actPush _, (u.actPush_cfg _).trans hc⟩)
      (endPkt := fun u ⟨hu, hc⟩ => ⟨hu.actEnd, u.actEnd_cfg.trans hc⟩)
      (error := fun _ ⟨hu, hc⟩ => ⟨hu.of_eq rfl, hc⟩)
      (overrun := fun u ⟨hu, hc⟩ => ⟨hu.overrunCheck, u.overrunCheck_cfg.trans hc⟩)
  exact hkeeps.1

theorem LegalState.captureTurn {s t : State} (hs : LegalState s) (h : captureTurn s = .next t) : LegalState t := by
  rcases captureTurn_next h with ⟨-, rfl⟩ | ⟨p0, p1, p2, p3, rest, -, h⟩
  · exact hs
  · obtain ⟨-, e, row, -, hentry, -, rfl⟩ := execSample_next.mp h
    have htaken : LegalState { s with srcPairs := rest } := hs.of_eq rfl
    exact htaken.beginDecoderStep.decStep (entryLegal_iff.mp hentry).1 row

/-! #### The dispatch step -/

theorem LegalState.request {s : State} (hs : LegalState s) (r : EnvRequest) : LegalState (s.request r) := hs.of_eq rfl

/-- A selection of a response that reads no block. -/
theorem LegalState.select {s : State} (hs : LegalState s) {x : BitVec 4} (hn : x.toNat < s.cfg.numSel)
    (hv : x.toNat < selValues) (h6 : x ≠ selMcBlockdata) (h11 : x ≠ selVibAstdata) : LegalState (s.select x) :=
  { hs with
    admissible := State.inadmissible_none_iff.mpr { hs.admitted with selCount := hn, selNamed := hv }
    cardRead := fun h => absurd h h6
    vibRead := fun h => absurd h h11 }

/-- The begin of a block read selects the block data of its own unit. -/
theorem LegalState.beginRead {s : State} (hs : LegalState s) (a : Word) {u : ReadUnit} {x : BitVec 4}
    (hn : (s.beginRead a u x).sel.toNat < s.cfg.numSel) (hv : x.toNat < selValues)
    (h6 : x = selMcBlockdata → u = .memoryCard) (h11 : x = selVibAstdata → u = .vibrationPack) :
    LegalState (s.beginRead a u x) := by
  rcases s.beginRead_cases a u x with ⟨-, h⟩ | ⟨-, h⟩ <;> rw [h] at hn ⊢
  · exact hs.raiseFatal (by decide) (by decide)
  · exact { hs with
      admissible := State.inadmissible_none_iff.mpr { hs.admitted with selCount := hn, selNamed := hv }
      cardRead := fun h => ⟨rfl, h6 h⟩
      vibRead := fun h => ⟨rfl, h11 h⟩ }

theorem LegalState.muxBuild {s : State} (hs : LegalState s) (x : BitVec 4) (img : List Word) :
    LegalState (s.muxBuild x img) := by
  unfold State.muxBuild
  cases s.dynRequest x <;> exact hs.of_eq rfl

theorem selNothing_named : selNothing.toNat < selValues := by decide

theorem selNothing_ne_blockdata : selNothing ≠ selMcBlockdata := by decide

theorem selNothing_ne_astdata : selNothing ≠ selVibAstdata := by decide

/-- An accepted transfer leaves nothing selected, so no outstanding read is asked for. -/
theorem LegalState.accept {s : State} (hs : LegalState s) (x : BitVec 4) : LegalState (s.accept x) :=
  { hs with
    admissible := State.inadmissible_none_iff.mpr
      { hs.admitted with selCount := Nat.zero_lt_of_lt hs.admitted.selCount, selNamed := selNothing_named }
    cardRead := fun h => absurd h selNothing_ne_blockdata
    vibRead := fun h => absurd h selNothing_ne_astdata }

/-- An operation of the dispatch agent keeps a legal state legal if the selector it leaves is one of the `NUM_SEL` values; a
request alone may select a value that is not there (notes/assumptions/14). -/
theorem DispatchEffect.keeps_legal {s t : State} (h : DispatchEffect s t) (hs : LegalState s)
    (hn : t.sel.toNat < s.cfg.numSel) : LegalState t := by
  cases h with
  | nothing => exact hs
  | selects x hx h6 h11 => exact hs.select hn hx h6 h11
  | hands r x hx h6 h11 => exact (hs.request r).select hn hx h6 h11
  | readsCard a => exact hs.beginRead a hn (by decide) (fun _ => rfl) (fun h => absurd h (by decide))
  | readsVib a => exact hs.beginRead a hn (by decide) (fun h => absurd h (by decide)) (fun _ => rfl)
  | waits => exact hs.request _
  | sends x img => exact (((hs.request _).muxBuild x img).request _).accept x

/-- A fatal raised by an operation of the dispatch agent leaves the selector alone. -/
theorem DispatchEffect.sel_of_fatal {s t : State} (h : DispatchEffect s t) (hs : s.fatal = false) (ht : t.fatal = true) :
    t.sel = s.sel := by
  have live : ∀ {u : State}, u.fatal = s.fatal → u.fatal = true → False := fun hu h => by simp [hu, hs] at h
  cases h with
  | nothing | waits => rfl
  | selects | hands => exact (live rfl ht).elim
  | readsCard a =>
    rcases s.beginRead_cases a .memoryCard selMcBlockdata with ⟨-, h⟩ | ⟨-, h⟩ <;> rw [h] at ht ⊢
    · rfl
    · exact (live rfl ht).elim
  | readsVib a =>
    rcases s.beginRead_cases a .vibrationPack selVibAstdata with ⟨-, h⟩ | ⟨-, h⟩ <;> rw [h] at ht ⊢
    · rfl
    · exact (live rfl ht).elim
  | sends x img => exact (live (by simp) ht).elim

theorem LegalState.copyOut {s : State} {endOff : Nat} {rest : List Nat} (hs : LegalState s)
    (hq : s.handoff = endOff :: rest) : LegalState (s.copyOut endOff rest) := by
  obtain ⟨hseen, -, -, hstart, hwr, hfit⟩ := State.cursorsFit_iff.mp hs.fit
  have hdepth : rest.length ≤ s.cfg.handoffDepth := by
    have := hs.depth
    rw [hq, List.length_cons] at this
    omega
  have hrest : ∀ c ∈ rest, c < 2 ^ s.cfg.cursorW := fun c hc => hfit c (hq ▸ List.mem_cons_of_mem _ hc)
  have hnext := alignUp_lt s.cfg.cursorW endOff s.cfg.startAlign
  have haligned := alignUp_mod s.cfg.cursorW endOff s.cfg.startAlign
  rcases Nat.lt_or_ge Config.pktMaxBytes (cursorSub s.cfg.cursorW endOff s.rd) with hl | hl
  · rw [s.copyOut_long rest hl]
    exact { hs with
      depth := hdepth
      rawlen := Nat.zero_le _
      released := rfl
      fit := State.cursorsFit_iff.mpr ⟨hseen, hnext, hnext, hstart, hwr, hrest⟩
      aligned := ⟨haligned, hs.aligned.2⟩ }
  · have hlen : (BitVec.ofNat 11 (cursorSub s.cfg.cursorW endOff s.rd)).toNat ≤ Config.pktMaxBytes :=
      (Nat.mod_le _ _).trans hl
    rw [s.copyOut_short rest hl]
    exact { hs with
      depth := hdepth
      rawlen := hlen
      released := rfl
      fit := State.cursorsFit_iff.mpr ⟨hseen, hnext, hnext, hstart, hwr, hrest⟩
      aligned := ⟨haligned, hs.aligned.2⟩ }

/-- A masked address has no port bits (30_encoding R105). -/
theorem addrId_and_portMask (k : Fin 7) (a : Byte) : addrId k a &&& portMask k = 0 := by
  rw [addrId, BitVec.and_assoc, BitVec.not_and_self]
  exact BitVec.and_zero

theorem LegalState.parsed {s : State} (hs : LegalState s) {raw : List Byte} {h : Word} {ws : List Word}
    (hp : packetWords raw = some (h :: ws)) : LegalState (s.parsed h ws) := by
  have hcount : ws.length ≤ 255 := by
    have := (hdrCount h).isLt
    have := packetWords_count hp
    omega
  have hwords : (ws ++ s.pw.drop ws.length).length = 255 := by
    rw [List.length_append, List.length_drop, hs.words]
    omega
  exact { hs with words := hwords, masked := ⟨addrId_and_portMask _ _, addrId_and_portMask _ _⟩ }

/-- The packet part of a live block: a legal state, but for a selector of a request that `NUM_SEL` leaves out. -/
theorem LegalState.packetPart {s t : State} {endOff : Nat} {rest : List Nat} (hs : LegalState s)
    (hq : s.handoff = endOff :: rest) (h : packetPart s endOff rest = .next t)
    (hsel : t.fatal = false → t.sel.toNat < t.cfg.numSel) : LegalState t := by
  have hcopied := hs.copyOut hq
  rcases packetPart_next h with ⟨-, rfl⟩ | ⟨u, hu, h⟩
  · exact hcopied
  · obtain ⟨-, hd, ws, hp, rfl⟩ := State.validate_some.mp hu
    have hparsed := hcopied.parsed hp
    obtain ⟨hlive, heffect⟩ := exec_dispatchEffect (State.pendingRequest_ofCapture _) h
    refine heffect.keeps_legal hparsed ?_
    cases hf : t.fatal with
    | false => rw [← heffect.frame.constants.cfg]; exact hsel hf
    | true => rw [heffect.sel_of_fatal hlive hf]; exact hparsed.admitted.selCount

theorem LegalState.schedTry {s t : State} (hs : LegalState s) (h : schedTry s = .next t) : LegalState t := by
  rcases schedTry_next h with ⟨-, rfl⟩ | ⟨-, i, hi, h⟩
  · exact hs
  · refine (exec_dispatchEffect (decodeSel_ofCapture hi) h).2.keeps_legal hs ?_
    rcases (exec_decodeSel_keeps hi h).2 with he | he <;> rw [he]
    · exact hs.admitted.selCount
    · exact Nat.zero_lt_of_lt hs.admitted.selCount

/-- A scheduler that answers next in a live block found one of the `NUM_SEL` selector values. -/
theorem schedTry_selCount {s t : State} (h : schedTry s = .next t) (hf : s.fatal = false) : s.sel.toNat < s.cfg.numSel := by
  rcases schedTry_next h with ⟨hfatal, -⟩ | ⟨-, i, hi, -⟩
  · simp [hf] at hfatal
  · exact (decodeSel_isSome.mp (Option.isSome_of_eq_some hi)).1

theorem LegalState.reportIdle {s : State} (hs : LegalState s) (idle : Bool) : LegalState (s.reportIdle idle) := by
  unfold State.reportIdle
  split
  · exact hs
  · exact hs.of_eq rfl

theorem LegalState.dispatchTurn {s t : State} (hs : LegalState s) (h : dispatchTurn s = .next t) : LegalState t := by
  rcases dispatchTurn_next h with ⟨-, rfl⟩ | ⟨-, h⟩
  · exact hs
  · rcases dispatchStep_next h with ⟨-, u, hu, rfl⟩ | ⟨endOff, rest, u, v, hq, hu, hv, rfl⟩
    · exact (hs.schedTry hu).reportIdle true
    · exact ((hs.packetPart hq hu (schedTry_selCount hv)).schedTry hv).reportIdle false

/-! #### Reset -/

/-- With admissible parameters and tables the registers of R48 make a legal state. -/
theorem Admissible.afterRst_legal {s : State} (ha : Admissible s) : LegalState s.afterRst where
  admissible := State.inadmissible_none_iff.mpr
    { ha with
      dstate := Nat.zero_lt_of_lt ha.dstate
      selCount := Nat.zero_lt_of_lt ha.selCount
      selNamed := selNothing_named
      cause := Nat.succ_pos 4
      causeNamed := nofun }
  cause := fun _ => rfl
  depth := Nat.zero_le _
  rawlen := Nat.zero_le _
  words := List.length_replicate
  masked := ⟨BitVec.zero_and, BitVec.zero_and⟩
  cardRead := fun h => absurd h selNothing_ne_blockdata
  vibRead := fun h => absurd h selNothing_ne_astdata
  released := rfl
  fit := by
    have h0 := Nat.two_pow_pos s.cfg.cursorW
    exact State.cursorsFit_iff.mpr ⟨h0, h0, h0, h0, h0, nofun⟩
  aligned := ⟨Nat.zero_mod _, Nat.zero_mod _⟩

/-- Settles O56: a step is reset, a turn without an agent, or the turn of one agent, and each keeps a legal state legal. -/
theorem stepKeepsLegalState : Obligations.StepKeepsLegalState := by
  intro s t hs h
  have hin : LegalState s.intake := hs.of_eq rfl
  rcases (step_next h).2 with ⟨-, rfl⟩ | ⟨-, -, rfl⟩ | ⟨-, -, -, u, hu, rfl⟩ | ⟨-, -, -, u, hu, rfl⟩
  · exact hin.admitted.afterRst_legal.of_eq rfl
  · exact hin.of_eq rfl
  · exact (hin.captureTurn hu).of_eq rfl
  · exact (hin.dispatchTurn hu).of_eq rfl

/-! ### The reset state -/

theorem reset_admissible : Admissible State.reset where
  params := by decide +kernel
  graph := reset_referenceTables.built.accepted
  ortab := reset_referenceTables.built.ortab
  table := rfl
  dstate := by decide
  selCount := by decide
  selNamed := by decide
  cause := by decide
  causeNamed := nofun

theorem reset_legalState : LegalState State.reset := reset_admissible.afterRst_legal.of_eq rfl

theorem reset_memoriesFit : MemoriesFit State.reset where
  ringForm := reset_ring_wf
  rawForm := reset_raw_wf
  ringSize := nofun
  rawSize := nofun

/-- After reset every cursor stands at `rd_seen`. -/
theorem reset_cursorInv : CursorInv State.reset where
  align := rfl
  size := by decide
  fit := reset_legalState.fit
  released := rfl
  ordered := by
    show [0, 0, 0].Pairwise fun a b => State.reset.ahead a ≤ State.reset.ahead b
    simp
  room := (cursorSub_self _ _).trans_le (Nat.zero_le _)

/-- After reset nothing is received and nothing is published. -/
theorem reset_checksumInv : ChecksumInv State.reset where
  running := by
    have hempty : cursorSub State.reset.cfg.cursorW State.reset.wr State.reset.pstart = 0 := cursorSub_self _ _
    rw [hempty]
    rfl
  published := rfl

/-- Settles O55: the reset state meets each of the four invariants. -/
theorem resetMeetsInvariants : Obligations.ResetMeetsInvariants :=
  ⟨reset_legalState, reset_memoriesFit, reset_cursorInv, reset_checksumInv⟩

end Sys2Proof.Machine

/-! SUPPORT. What a turn of either agent does to the memories: the constant memories stay (20_memory R81, R82), and the byte
memories keep their form and size (R60, R63, R64). -/

namespace Sys2Proof.Machine

/-! ### The memories, the queue and the cursors -/

/-- The memories, the handoff, the cursors and the running XOR are the same; every other register may differ. -/
structure SameStorage (s t : State) : Prop where
  constants : SameConstants s t
  ring : t.ring = s.ring
  raw : t.raw = s.raw
  handoff : t.handoff = s.handoff
  rd : t.rd = s.rd
  rdRelease : t.rdRelease = s.rdRelease
  rdSeen : t.rdSeen = s.rdSeen
  pstart : t.pstart = s.pstart
  wr : t.wr = s.wr
  rxor : t.rxor = s.rxor

theorem SameConstants.refl (s : State) : SameConstants s s := ⟨rfl, rfl, rfl, rfl⟩

theorem SameConstants.trans {s t u : State} (h : SameConstants s t) (k : SameConstants t u) : SameConstants s u where
  cfg := k.cfg.trans h.cfg
  table := k.table.trans h.table
  ortab := k.ortab.trans h.ortab
  tpl := k.tpl.trans h.tpl

/-- Two states that agree outside the registers that hold no memory, cursor or checksum. -/
theorem SameStorage.of_eq {s t : State}
    (h : t = { s with dstate := t.dstate, acc := t.acc, errPulse := t.errPulse, fatal := t.fatal
                      fatalCause := t.fatalCause, rawlen := t.rawlen, oversize := t.oversize, hcmd := t.hcmd
                      hdst := t.hdst, horg := t.horg, hnw := t.hnw, pw := t.pw, activePort := t.activePort
                      sel := t.sel, readOutstanding := t.readOutstanding, readAddr := t.readAddr
                      readUnit := t.readUnit, out := t.out, idleOpportunity := t.idleOpportunity
                      srcPairs := t.srcPairs, srcOverrun := t.srcOverrun, envLog := t.envLog, script := t.script
                      tick := t.tick }) : SameStorage s t := by
  rw [h]
  exact ⟨⟨rfl, rfl, rfl, rfl⟩, rfl, rfl, rfl, rfl, rfl, rfl, rfl, rfl, rfl⟩

theorem State.intake_sameStorage (s : State) : SameStorage s s.intake := .of_eq rfl

theorem State.advance_sameStorage (s : State) : SameStorage s s.advance := .of_eq rfl

theorem State.raiseFatal_sameStorage (s : State) (code : BitVec 3) : SameStorage s (s.raiseFatal code) := .of_eq rfl

theorem State.reportIdle_sameStorage (s : State) (idle : Bool) : SameStorage s (s.reportIdle idle) := by
  unfold State.reportIdle
  split <;> exact .of_eq rfl

theorem DispatchFrame.sameStorage {s t : State} (h : DispatchFrame s t) : SameStorage s t where
  constants := h.constants
  ring := h.capture.ring
  raw := h.raw
  handoff := h.handoff
  rd := h.rd
  rdRelease := h.rdRelease
  rdSeen := h.capture.rdSeen
  pstart := h.capture.pstart
  wr := h.capture.wr
  rxor := h.capture.rxor

/-! ### The turns as changes of the storage -/

/-- The state after a push that the lap check lets through (41_decoder R165). -/
def State.stored (s : State) (nxt : Byte) : State :=
  { s with
    ring := Memory.write s.ring (s.ringIndex s.wr) s.acc
    rxor := s.rxor ^^^ s.acc
    acc := nxt
    wr := cursorAdd s.cfg.cursorW s.wr 1 }

/-- The state after an End that publishes its packet (41_decoder R166). -/
def State.published (s : State) : State :=
  { s with handoff := s.handoff ++ [s.wr], pstart := alignUp s.cfg.cursorW s.wr s.cfg.startAlign }

/-- A turn of the capture agent changes the storage in four ways only: a draw of `rd_seen`, a Reset, a byte stored below the
lap limit, a packet published with its XOR zero. A property that these keep, and that only the storage bears on, holds after
the turn. -/
theorem captureTurn_induction {P : State → Prop} {s t : State} (h : captureTurn s = .next t) (h0 : P s)
    (same : ∀ u v, SameStorage u v → P u → P v)
    (draw : ∀ u x, u.drawAllowed x = true → P u → P { u with rdSeen := x })
    (reset : ∀ u, P u → P u.actReset)
    (store : ∀ u nxt, cursorSub u.cfg.cursorW u.wr u.rdSeen < u.cfg.ringSize → P u → P (u.stored nxt))
    (publish : ∀ u, u.rxor = 0 → P u → P u.published) : P t := by
  have fatal : ∀ u code, P u → P (u.raiseFatal code) := fun u code => same _ _ (u.raiseFatal_sameStorage code)
  rcases captureTurn_next h with ⟨-, rfl⟩ | ⟨p0, p1, p2, p3, rest, -, h⟩
  · exact h0
  obtain ⟨-, e, row, -, -, -, rfl⟩ := execSample_next.mp h
  have htaken : P { s with srcPairs := rest } := same s _ (.of_eq rfl) h0
  have hbegun : P ({ s with srcPairs := rest } : State).beginDecoderStep := by
    unfold State.beginDecoderStep
    split
    · next hd => exact same _ _ (.of_eq rfl) (draw _ _ hd htaken)
    · exact same _ _ (.of_eq rfl) htaken
  refine State.decStep_keeps hbegun (next := fun u => same _ _ (.of_eq rfl)) (reset := reset)
    (or := fun u => same _ _ (.of_eq rfl)) (push := fun u hu => ?_) (endPkt := fun u hu => ?_)
    (error := fun u => same _ _ (.of_eq rfl)) (overrun := fun u hu => ?_)
  · rcases u.actPush_cases row.2 with ⟨-, h⟩ | ⟨hroom, h⟩ <;> rw [h]
    · exact fatal u _ hu
    · exact store u row.2 hroom hu
  · rcases u.actEnd_cases with ⟨-, h⟩ | ⟨-, -, h⟩ | ⟨hgood, -, h⟩ <;> rw [h]
    · exact hu
    · exact fatal u _ hu
    · exact publish u hgood hu
  · rcases u.overrunCheck_cases with ⟨-, h⟩ | ⟨-, h⟩ <;> rw [h]
    · exact hu
    · exact fatal u _ hu

theorem schedTry_sameStorage {s t : State} (h : schedTry s = .next t) : SameStorage s t := by
  rcases schedTry_next h with ⟨-, rfl⟩ | ⟨-, i, hi, h⟩
  · exact .of_eq rfl
  · exact (exec_dispatchEffect (decodeSel_ofCapture hi) h).2.frame.sameStorage

/-- A turn of the dispatch agent changes the storage by the copy-out of the oldest published packet only. -/
theorem dispatchTurn_induction {P : State → Prop} {s t : State} (h : dispatchTurn s = .next t) (h0 : P s)
    (same : ∀ u v, SameStorage u v → P u → P v)
    (copyOut : ∀ endOff rest, s.handoff = endOff :: rest → P (s.copyOut endOff rest)) : P t := by
  rcases dispatchTurn_next h with ⟨-, rfl⟩ | ⟨-, h⟩
  · exact h0
  rcases dispatchStep_next h with ⟨-, u, hu, rfl⟩ | ⟨endOff, rest, u, v, hq, hu, hv, rfl⟩
  · exact same _ _ (u.reportIdle_sameStorage true) (same _ _ (schedTry_sameStorage hu) h0)
  · have hcopied := copyOut endOff rest hq
    have hpacket : P u := by
      rcases packetPart_next hu with ⟨-, rfl⟩ | ⟨w, hw, he⟩
      · exact hcopied
      · obtain ⟨-, hd, ws, -, rfl⟩ := State.validate_some.mp hw
        have hparsed := same _ ((s.copyOut endOff rest).parsed hd ws) (.of_eq rfl) hcopied
        exact same _ _ (exec_dispatchEffect (State.pendingRequest_ofCapture _) he).2.frame.sameStorage hparsed
    exact same _ _ (v.reportIdle_sameStorage false) (same _ _ (schedTry_sameStorage hv) hpacket)

/-- A property that only the storage bears on holds after a step if reset and the turn of each agent keep it. -/
theorem step_induction {P : State → Prop} {s t : State} (h : step s = .next t) (h0 : P s)
    (same : ∀ u v, SameStorage u v → P u → P v) (rst : ∀ u, P u → P u.afterRst)
    (capture : ∀ u v, P u → captureTurn u = .next v → P v)
    (dispatch : ∀ u v, P u → dispatchTurn u = .next v → P v) : P t := by
  have hin : P s.intake := same _ _ s.intake_sameStorage h0
  have advance : ∀ u, P u → P u.advance := fun u => same _ _ u.advance_sameStorage
  rcases (step_next h).2 with ⟨-, rfl⟩ | ⟨-, -, rfl⟩ | ⟨-, -, -, u, hu, rfl⟩ | ⟨-, -, -, u, hu, rfl⟩
  · exact advance _ (rst _ hin)
  · exact advance _ hin
  · exact advance u (capture _ u hin hu)
  · exact advance u (dispatch _ u hin hu)

/-! ### The constant memories -/

theorem State.copyOut_sameConstants (s : State) (endOff : Nat) (rest : List Nat) :
    SameConstants s (s.copyOut endOff rest) := by
  unfold State.copyOut
  simp only
  split <;> exact ⟨rfl, rfl, rfl, rfl⟩

/-- Settles O53: reset takes the constants over, and neither agent's turn changes the storage in a way that touches them. -/
theorem stepKeepsConstantMemories : Obligations.StepKeepsConstantMemories := by
  intro s t h
  have same : ∀ u v, SameStorage u v → SameConstants s u → SameConstants s v := fun _ _ huv hu => hu.trans huv.constants
  refine step_induction h (.refl s) same (rst := fun _ hu => { hu with }) (capture := fun u v hu h => ?_)
    (dispatch := fun u v hu h => ?_)
  · exact captureTurn_induction h hu same (draw := fun _ _ _ hu => { hu with }) (reset := fun _ hu => { hu with })
      (store := fun _ _ _ hu => { hu with }) (publish := fun _ _ hu => { hu with })
  · exact dispatchTurn_induction h hu same
      (copyOut := fun endOff rest _ => hu.trans (u.copyOut_sameConstants endOff rest))

/-! ### The byte memories -/

theorem MemoriesFit.same {s t : State} (h : SameStorage s t) (hs : MemoriesFit s) : MemoriesFit t where
  ringForm := h.ring ▸ hs.ringForm
  rawForm := h.raw ▸ hs.rawForm
  ringSize := by rw [h.ring, h.constants.cfg]; exact hs.ringSize
  rawSize := h.raw ▸ hs.rawSize

/-- A byte is stored at a ring index, which lies inside the ring (20_memory R63). -/
theorem MemoriesFit.stored {s : State} (hs : MemoriesFit s) (nxt : Byte) : MemoriesFit (s.stored nxt) :=
  { hs with
    ringForm := Memory.write_wf hs.ringForm _ _
    ringSize := fun c hc => by
      rcases Memory.mem_write hc with hc | rfl
      · exact hs.ringSize c hc
      · exact s.ringIndex_lt s.wr }

/-- A run that is copied has at most `PKT_MAX_BYTES` bytes, so it lies inside `RAW` (20_memory R64, 42_ring_handoff R202). -/
theorem MemoriesFit.copyOut {s : State} (hs : MemoriesFit s) (endOff : Nat) (rest : List Nat) :
    MemoriesFit (s.copyOut endOff rest) := by
  rcases Nat.lt_or_ge Config.pktMaxBytes (cursorSub s.cfg.cursorW endOff s.rd) with hl | hl
  · rw [s.copyOut_long rest hl]
    exact { hs with }
  · rw [s.copyOut_short rest hl]
    exact { hs with
      rawForm := Memory.writeRun_wf hs.rawForm _ _
      rawSize := fun c hc => by
        rcases Memory.mem_writeRun hc with hc | ⟨-, hrun⟩
        · exact hs.rawSize c hc
        · rw [State.length_ringRun] at hrun
          omega }

/-- After reset nothing is written. -/
theorem State.afterRst_memoriesFit (s : State) : MemoriesFit s.afterRst := ⟨reset_ring_wf, reset_raw_wf, nofun, nofun⟩

/-- Settles O57: reset clears the byte memories, a push writes inside the ring (`MemoriesFit.stored`) and a copy-out inside
`RAW` (`MemoriesFit.copyOut`); nothing else writes them. -/
theorem stepKeepsMemoriesFit : Obligations.StepKeepsMemoriesFit := by
  intro s t hs h
  have same : ∀ u v, SameStorage u v → MemoriesFit u → MemoriesFit v := fun _ _ huv hu => hu.same huv
  refine step_induction h hs same (rst := fun u _ => u.afterRst_memoriesFit) (capture := fun u v hu h => ?_)
    (dispatch := fun u v hu h => ?_)
  · exact captureTurn_induction h hu same (draw := fun _ _ _ hu => { hu with }) (reset := fun _ hu => { hu with })
      (store := fun _ nxt _ hu => hu.stored nxt) (publish := fun _ _ hu => { hu with })
  · exact dispatchTurn_induction h hu same (copyOut := fun endOff rest _ => hu.copyOut endOff rest)

end Sys2Proof.Machine

/-! SUPPORT. The tables of any accepted graph: every walk has its row in `ORTAB` (40_table_builder R147) and ends in a state of
the graph, so a table word unpacks to the entry it was made of (30_encoding R95). -/

namespace Sys2Proof.Machine

open Config (Edge Graph PairOrder)

/-! ### The OR table of any graph -/

theorem dedupState_eq_addAll (o : PairOrder) (g : Graph) (tab : List (Byte × Byte)) (s : Nat) :
    dedupState o g tab s = addAll tab ((List.range 256).map fun b => (compile o g s (BitVec.ofNat 8 b)).pair) := by
  rw [dedupState, funext₂ (dedupStep_eq o g s), addAll, List.foldl_map]

/-- `TB.DEDUP` appends the pairs of all walks, states upward and inside them bytes upward, to the preset row. -/
theorem dedup_eq_addAll (o : PairOrder) (g : Graph) :
    dedup o g = addAll [(0, 0)] ((List.range g.cells.length).flatMap fun s =>
      (List.range 256).map fun b => (compile o g s (BitVec.ofNat 8 b)).pair) := by
  rw [dedup, funext₂ (dedupState_eq_addAll o g)]
  generalize ([(0, 0)] : List (Byte × Byte)) = tab
  induction List.range g.cells.length generalizing tab with
  | nil => rfl
  | cons s states ih => rw [List.foldl_cons, ih, List.flatMap_cons, addAll_append]

/-- The OR table has a row for the pair of every walk. -/
theorem compile_pair_mem_dedup {o : PairOrder} {g : Graph} {s : Nat} (hs : s < g.cells.length) (b : Byte) :
    (compile o g s b).pair ∈ dedup o g := by
  rw [dedup_eq_addAll]
  refine mem_addAll.mpr (.inr (List.mem_flatMap.mpr ⟨s, List.mem_range.mpr hs, List.mem_map.mpr ⟨b.toNat, ?_, ?_⟩⟩))
  · exact List.mem_range.mpr b.isLt
  · rw [BitVec.ofNat_toNat, BitVec.setWidth_eq]

/-! ### Walks stay in the graph -/

/-- An edge that a lookup finds is an authored one, or the error edge (R142). -/
theorem edgeT_cases (g : Graph) (s : Nat) (v : Pair) :
    (∃ row ∈ g.cells, ∃ e, some e ∈ row ∧ edgeT g s v = { edge := e, error := false }) ∨ edgeT g s v = errorEdge g := by
  unfold edgeT
  split
  · next e he =>
    obtain ⟨row, hrow, hcell⟩ := Option.bind_eq_some_iff.mp he
    exact .inl ⟨row, List.mem_of_getElem? hrow, e, List.mem_of_getElem? hcell, rfl⟩
  · exact .inr rfl

/-- In a graph whose edges lead inside it every lookup leads to one of its states (R143). -/
theorem edgeT_next_lt {g : Graph} {n : Nat} (hidle : g.idle < n)
    (hedges : allEdges g (fun e => decide (e.next < n)) = true) (s : Nat) (v : Pair) : (edgeT g s v).edge.next < n := by
  rcases edgeT_cases g s v with ⟨row, hrow, e, he, heq⟩ | heq <;> rw [heq]
  · have hcell := List.all_eq_true.mp (List.all_eq_true.mp hedges row hrow) _ he
    exact of_decide_eq_true hcell
  · exact hidle

/-- The walk of a sample byte ends in a state of the graph (10_state R21). -/
theorem compile_st_lt {g : Graph} {n : Nat} (hidle : g.idle < n)
    (hedges : allEdges g (fun e => decide (e.next < n)) = true) (o : PairOrder) {s : Nat} (hs : s < n) (b : Byte) :
    (compile o g s b).st < n := by
  have walk : ∀ (vs : List Pair) (w : Walk), w.st < n → (vs.foldl (micro g) w).st < n := by
    intro vs
    induction vs with
    | nil => exact fun _ hw => hw
    | cons v vs ih => exact fun w _ => ih _ (edgeT_next_lt hidle hedges w.st v)
  exact walk _ { st := s } hs

/-! ### The entries of a built table -/

/-- In an accepted graph the word of a state and a byte unpacks to their compiled entry (30_encoding R95). -/
theorem unpack_compiledWord {p : Config.Params} (hp : builderRefuses p = none) (ortab : List (Byte × Byte)) {s : Nat}
    (hs : s < p.numStates) (b : Byte) :
    unpackTte p (compiledWord p ortab (s * 256 + b.toNat)) = compileEntry p.pairOrder p.graph ortab s b := by
  rw [builderRefuses_eq] at hp
  obtain ⟨hidle, hne, hedges, -, hwidth, -, -⟩ := graphError_none.mp hp
  have hb := b.isLt
  have hstate : (s * 256 + b.toNat) / 256 = s := by omega
  have hbyte : BitVec.ofNat 8 ((s * 256 + b.toNat) % 256) = b := by
    rw [show (s * 256 + b.toNat) % 256 = b.toNat by omega, BitVec.ofNat_toNat, BitVec.setWidth_eq]
  have hnext : (compile p.pairOrder p.graph s b).st < p.numStates :=
    compile_st_lt (hidle ▸ Nat.pos_of_ne_zero hne) hedges _ hs b
  rw [compiledWord, hstate, hbyte]
  exact unpack_pack (Nat.lt_of_lt_of_le hnext hwidth)

theorem State.tableEntry_of_built {u : State} (h : BuiltTables u) (hs : u.dstate < u.cfg.numStates) (b : Byte) :
    u.tableEntry b = some (compileEntry u.cfg.pairOrder u.cfg.graph (orTable u.cfg) u.dstate b) := by
  rw [State.tableEntry, if_pos hs, State.tableWord_of_built h.table, unpack_compiledWord h.accepted _ hs, h.ortab]

/-- Settles O21: the word at index `s * 256 + b` unpacks to the compiled entry (`unpack_compiledWord`), and the row number of
the entry is the index of a pair that the OR table has (`compile_pair_mem_dedup`). -/
theorem tableHoldsCompiledWalks : Obligations.TableHoldsCompiledWalks := by
  rintro p tables s b w hbuilt hs rfl
  rcases buildTables_cases p with ⟨e, -, he⟩ | ⟨hp, hok⟩
  · rw [he] at hbuilt
    cases hbuilt
  rw [hok] at hbuilt
  obtain rfl := Except.ok.inj hbuilt
  have hindex : s * 256 + b.toNat < p.numStates * 256 := by have := b.isLt; omega
  have hpair : (compile p.pairOrder p.graph s b).pair ∈ orTable p := by
    rw [orTable_eq]
    exact compile_pair_mem_dedup hs b
  refine ⟨compileEntry p.pairOrder p.graph (orTable p) s b, ?_, rfl, rfl, rfl, rfl, rfl, ?_, ?_⟩
  · rw [List.getElem?_map, List.getElem?_range hindex, Option.map_some, Option.map_some, unpack_compiledWord hp _ hs]
  · exact List.getElem?_idxOf hpair
  · rintro u rfl hu rfl
    exact ⟨State.tableEntry_of_built hu hs b, hu.ortab⟩

end Sys2Proof.Machine

/-! SUPPORT. The published packets stay good and in place (42_ring_handoff R192, R204; 20_memory R78; 43_validator R226): what the
four changes of a capture turn and the copy-out do to the cursor and checksum invariants, and which cursors a push leaves
alone. -/

namespace Sys2Proof.Machine

open Laws.EncodeFits (xorBytes_append)

/-! ### The order of the cursors -/

/-- A list that rises along `f` ends in its two greatest elements. -/
theorem pairwise_append_two {f : Nat → Nat} {l : List Nat} {b c : Nat} :
    (l ++ [b, c]).Pairwise (fun x y => f x ≤ f y) ↔ (l ++ [b]).Pairwise (fun x y => f x ≤ f y) ∧ f b ≤ f c := by
  rw [show l ++ [b, c] = (l ++ [b]) ++ [c] by simp, List.pairwise_append]
  constructor
  · rintro ⟨hl, -, hc⟩
    exact ⟨hl, hc b (by simp) c (by simp)⟩
  · rintro ⟨hl, hbc⟩
    have hb : ∀ a ∈ l, f a ≤ f b := fun a ha => (List.pairwise_append.mp hl).2.2 a ha b (by simp)
    refine ⟨hl, List.pairwise_singleton _ _, fun a ha d hd => ?_⟩
    obtain rfl := List.mem_singleton.mp hd
    rcases List.mem_append.mp ha with ha | ha
    · exact (hb a ha).trans hbc
    · obtain rfl := List.mem_singleton.mp ha
      exact hbc

section Ordered

variable {s : State} (h : CursorInv s)

include h

/-- The read cursor, the published end offsets and the packet start in order (R204). -/
theorem CursorInv.runs_ordered : (s.rd :: s.handoff ++ [s.pstart]).Pairwise fun a b => s.ahead a ≤ s.ahead b :=
  (pairwise_append_two.mp h.ordered).1

theorem CursorInv.pstart_le_wr : s.ahead s.pstart ≤ s.ahead s.wr := (pairwise_append_two.mp h.ordered).2

theorem CursorInv.rd_le {c : Nat} (hc : c ∈ s.handoff ++ [s.pstart, s.wr]) : s.ahead s.rd ≤ s.ahead c :=
  (List.pairwise_cons.mp h.ordered).1 c hc

theorem CursorInv.rd_le_pstart : s.ahead s.rd ≤ s.ahead s.pstart := h.rd_le (by simp)

theorem CursorInv.ringSize_lt : s.cfg.ringSize < 2 ^ s.cfg.cursorW := Nat.pow_lt_pow_right (by decide) h.size

/-- With `START_ALIGN = 1` a cursor that fits is aligned. -/
theorem CursorInv.alignUp_eq {c : Nat} (hc : c < 2 ^ s.cfg.cursorW) : alignUp s.cfg.cursorW c s.cfg.startAlign = c := by
  rw [h.align, alignUp_one, Nat.mod_eq_of_lt hc]

theorem CursorInv.wr_lt : s.wr < 2 ^ s.cfg.cursorW := h.fit _ (by simp [State.cursors])

/-- A cursor from the read cursor to the packet start lies before the packet start seen from `rd_seen`, too. -/
theorem CursorInv.ahead_of_rd {c : Nat}
    (hc : cursorSub s.cfg.cursorW c s.rd < cursorSub s.cfg.cursorW s.pstart s.rd) : s.ahead c < s.ahead s.pstart := by
  have hstart := cursorSub_sub h.rd_le_pstart
  have hlt := cursorSub_lt s.cfg.cursorW s.pstart s.rdSeen
  have hsum := cursorSub_add (w := s.cfg.cursorW) (a := s.rdSeen) (b := s.rd) (c := c)
  have hle := h.rd_le_pstart
  simp only [State.ahead] at hle ⊢
  rw [hsum (by omega)]
  omega

end Ordered

/-! ### The cursor invariants through a capture turn -/

theorem CursorInv.same {s t : State} (h : SameStorage s t) (hs : CursorInv s) : CursorInv t where
  align := h.constants.cfg ▸ hs.align
  size := by rw [h.constants.cfg]; exact hs.size
  fit := by
    simpa only [State.cursorsFit_iff, h.rdSeen, h.rdRelease, h.rd, h.pstart, h.wr, h.handoff, h.constants.cfg]
      using State.cursorsFit_iff.mp hs.fit
  released := by rw [h.rdRelease, h.rd]; exact hs.released
  ordered := by
    simpa only [State.ahead, h.rdSeen, h.rd, h.pstart, h.wr, h.handoff, h.constants.cfg] using hs.ordered
  room := by simpa only [State.ahead, h.rdSeen, h.wr, h.constants.cfg] using hs.room

/-- A draw moves `rd_seen` towards `rd`, behind every other cursor (10_state R26). -/
theorem CursorInv.draw {s : State} (hs : CursorInv s) {x : Nat} (hx : s.drawAllowed x = true) :
    CursorInv { s with rdSeen := x } := by
  obtain ⟨hfit, hseen, hrelease⟩ := State.drawAllowed_iff.mp hx
  rw [hs.released] at hrelease
  have hx_rd : s.ahead x ≤ s.ahead s.rd := by
    have hsum := cursorSub_add (w := s.cfg.cursorW) (a := s.rdSeen) (b := x) (c := s.rd) (by omega)
    simp only [State.ahead]
    omega
  have hahead : ∀ c ∈ s.rd :: s.handoff ++ [s.pstart, s.wr], ({ s with rdSeen := x } : State).ahead c = s.ahead c - s.ahead x := by
    intro c hc
    have hc : s.ahead s.rd ≤ s.ahead c := by
      rcases List.mem_cons.mp hc with rfl | hc
      · exact le_refl _
      · exact hs.rd_le hc
    exact cursorSub_sub (hx_rd.trans hc)
  obtain ⟨-, hcursors⟩ := State.cursorsFit_iff.mp hs.fit
  exact { hs with
    fit := State.cursorsFit_iff.mpr ⟨hfit, hcursors⟩
    ordered := hs.ordered.imp_of_mem fun ha hb hab => by
      rw [hahead _ ha, hahead _ hb]
      exact Nat.sub_le_sub_right hab _
    room := by
      rw [hahead s.wr (by simp)]
      exact (Nat.sub_le _ _).trans hs.room }

theorem CursorInv.actReset {s : State} (hs : CursorInv s) : CursorInv s.actReset := by
  obtain ⟨hseen, hrelease, hrd, hstart, -, hq⟩ := State.cursorsFit_iff.mp hs.fit
  exact { hs with
    fit := State.cursorsFit_iff.mpr ⟨hseen, hrelease, hrd, hstart, hstart, hq⟩
    ordered := pairwise_append_two.mpr ⟨hs.runs_ordered, le_refl _⟩
    room := hs.pstart_le_wr.trans hs.room }

/-- Below the lap limit the write cursor goes one further from `rd_seen` (42_ring_handoff R194). -/
theorem CursorInv.ahead_next {s : State} (hs : CursorInv s) (hroom : s.ahead s.wr < s.cfg.ringSize) :
    s.ahead (cursorAdd s.cfg.cursorW s.wr 1) = s.ahead s.wr + 1 := by
  have hsize := hs.ringSize_lt
  have hone : cursorSub s.cfg.cursorW (cursorAdd s.cfg.cursorW s.wr 1) s.wr = 1 :=
    cursorSub_cursorAdd _ (by have := Nat.two_pow_pos s.cfg.ringBits; omega)
  have hsum := cursorSub_add (w := s.cfg.cursorW) (a := s.rdSeen) (b := s.wr) (c := cursorAdd s.cfg.cursorW s.wr 1)
  rw [hone] at hsum
  exact hsum (by simp only [State.ahead] at hroom; omega)

theorem CursorInv.stored {s : State} (hs : CursorInv s) (hroom : s.ahead s.wr < s.cfg.ringSize) (nxt : Byte) :
    CursorInv (s.stored nxt) := by
  obtain ⟨hseen, hrelease, hrd, hstart, -, hq⟩ := State.cursorsFit_iff.mp hs.fit
  have hnext : (s.stored nxt).ahead (s.stored nxt).wr = s.ahead s.wr + 1 := hs.ahead_next hroom
  exact { hs with
    fit := State.cursorsFit_iff.mpr ⟨hseen, hrelease, hrd, hstart, cursorAdd_lt _ _ _, hq⟩
    ordered := pairwise_append_two.mpr ⟨hs.runs_ordered, hnext ▸ Nat.le_succ_of_le hs.pstart_le_wr⟩
    room := hnext ▸ hroom }

theorem CursorInv.published {s : State} (hs : CursorInv s) : CursorInv s.published := by
  obtain ⟨hseen, hrelease, hrd, -, hwr, hq⟩ := State.cursorsFit_iff.mp hs.fit
  have hq' : ∀ c ∈ s.handoff ++ [s.wr], c < 2 ^ s.cfg.cursorW := by
    simpa [or_imp, forall_and] using ⟨hq, hwr⟩
  have hruns : (s.rd :: s.handoff ++ [s.wr]).Pairwise fun a b => s.ahead a ≤ s.ahead b :=
    hs.ordered.sublist (by simp)
  have hordered : (s.rd :: (s.handoff ++ [s.wr]) ++ [s.wr, s.wr]).Pairwise fun a b => s.ahead a ≤ s.ahead b := by
    refine pairwise_append_two.mpr ⟨?_, le_refl _⟩
    rw [List.cons_append, List.append_assoc]
    exact pairwise_append_two.mpr ⟨hruns, le_refl _⟩
  have hstart : s.published = { s with handoff := s.handoff ++ [s.wr], pstart := s.wr } := by
    rw [State.published, hs.alignUp_eq hwr]
  rw [hstart]
  exact { hs with
    fit := State.cursorsFit_iff.mpr ⟨hseen, hrelease, hrd, hwr, hwr, hq'⟩
    ordered := hordered }

/-! ### Runs of the ring -/

theorem State.ringRead_congr {s t : State} (hring : t.ring = s.ring) (hcfg : t.cfg = s.cfg) (c : Nat) :
    t.ringRead c = s.ringRead c := by
  rw [State.ringRead, State.ringRead, State.ringIndex, State.ringIndex, hring, hcfg]

/-- A run reads the cursors between its ends. -/
theorem State.ringRun_congr {s t : State} (hcfg : t.cfg = s.cfg) {a b : Nat} (hab : s.ahead a ≤ s.ahead b)
    (hread : ∀ c, s.ahead c < s.ahead b → t.ringRead c = s.ringRead c) :
    t.ringRun a (cursorSub s.cfg.cursorW b a) = s.ringRun a (cursorSub s.cfg.cursorW b a) := by
  unfold State.ringRun
  rw [hcfg]
  refine List.map_congr_left fun i hi => hread _ ?_
  have hi := List.mem_range.mp hi
  have hlen := cursorSub_sub hab
  have hb := cursorSub_lt s.cfg.cursorW b s.rdSeen
  have hstep := cursorSub_cursorAdd (w := s.cfg.cursorW) (n := i) a (by omega)
  have hsum := cursorSub_add (w := s.cfg.cursorW) (a := s.rdSeen) (b := a) (c := cursorAdd s.cfg.cursorW a i)
  simp only [State.ahead] at hab ⊢
  rw [hstep] at hsum
  rw [hsum (by omega)]
  omega

theorem State.ringRun_succ (s : State) (a n : Nat) :
    s.ringRun a (n + 1) = s.ringRun a n ++ [s.ringRead (cursorAdd s.cfg.cursorW a n)] := by
  simp [State.ringRun, List.range_succ]

/-- Good runs stay good where the bytes before the packet start read as before. -/
theorem RunsGood.congr {s t : State} (hcfg : t.cfg = s.cfg) (hstart : t.pstart = s.pstart)
    (hread : ∀ c, s.ahead c < s.ahead s.pstart → t.ringRead c = s.ringRead c) {start : Nat} {es : List Nat}
    (hordered : (start :: es ++ [s.pstart]).Pairwise fun a b => s.ahead a ≤ s.ahead b) (h : RunsGood s start es) :
    RunsGood t start es := by
  induction es generalizing start with
  | nil => exact Eq.trans h hstart.symm
  | cons e es ih =>
    obtain ⟨hrun, hrest⟩ := h
    obtain ⟨hfirst, hordered⟩ := List.pairwise_cons.mp hordered
    have hend : s.ahead e ≤ s.ahead s.pstart := (List.pairwise_cons.mp hordered).1 _ (by simp)
    have hsame := State.ringRun_congr hcfg (hfirst e (by simp)) fun c hc => hread c (Nat.lt_of_lt_of_le hc hend)
    exact ⟨by rw [hcfg, hsame]; exact hrun, ih hordered hrest⟩

/-- The run from the old packet start closes the published runs. -/
theorem RunsGood.concat {s : State} {e : Nat} (hlast : xorBytes (s.ringRun s.pstart (cursorSub s.cfg.cursorW e s.pstart)) = 0)
    (q : List Nat) {start : Nat} {es : List Nat} (h : RunsGood s start es) :
    RunsGood { s with handoff := q, pstart := e } start (es ++ [e]) := by
  induction es generalizing start with
  | nil =>
    obtain rfl : start = s.pstart := h
    exact ⟨hlast, rfl⟩
  | cons d es ih => exact ⟨h.1, ih h.2⟩

/-! ### The checksum invariant through a capture turn -/

/-- The checksum invariant is about the storage alone. -/
theorem ChecksumInv.same {s t : State} (h : SameStorage s t) (hc : CursorInv s) (hs : ChecksumInv s) : ChecksumInv t := by
  have hcfg := h.constants.cfg
  have hread := State.ringRead_congr h.ring hcfg
  have hrun := State.ringRun_congr hcfg hc.pstart_le_wr fun c _ => hread c
  exact
    { running := by rw [h.rxor, hcfg, h.wr, h.pstart, hrun]; exact hs.running
      published := by
        rw [h.rd, h.handoff]
        exact hs.published.congr hcfg h.pstart (fun c _ => hread c) hc.runs_ordered }

/-- A draw touches neither the ring nor the packets. -/
theorem ChecksumInv.draw {s : State} (hc : CursorInv s) (hs : ChecksumInv s) (x : Nat) :
    ChecksumInv { s with rdSeen := x } where
  running := hs.running
  published := hs.published.congr (s := s) (t := { s with rdSeen := x }) rfl rfl (fun _ _ => rfl) hc.runs_ordered

/-- After a Reset no byte of the packet is received. -/
theorem ChecksumInv.actReset {s : State} (hc : CursorInv s) (hs : ChecksumInv s) : ChecksumInv s.actReset where
  running := by
    have hempty : cursorSub s.actReset.cfg.cursorW s.actReset.wr s.actReset.pstart = 0 := cursorSub_self _ _
    rw [hempty]
    rfl
  published := hs.published.congr (s := s) (t := s.actReset) rfl rfl (fun _ _ => rfl) hc.runs_ordered

/-- A push below the lap limit leaves every cursor before `wr` alone: less than a ring apart, they have other ring indices
(42_ring_handoff R204, 20_memory R78). -/
theorem CursorInv.stored_ringRead {s : State} (hs : CursorInv s) (hroom : s.ahead s.wr < s.cfg.ringSize) (nxt : Byte)
    {c : Nat} (hc : s.ahead c < s.ahead s.wr) : (s.stored nxt).ringRead c = s.ringRead c := by
  refine Memory.read_write_other s.ring s.acc fun heq => ?_
  have hsame : s.ahead c = s.ahead s.wr := ringIndex_inj (Nat.le_of_lt hs.size) (hc.trans hroom) hroom heq
  omega

/-- The received run after a push: the run before it and the byte. -/
theorem CursorInv.stored_run {s : State} (hs : CursorInv s) (hring : Memory.wf s.ring)
    (hroom : s.ahead s.wr < s.cfg.ringSize) (nxt : Byte) :
    (s.stored nxt).ringRun s.pstart (cursorSub s.cfg.cursorW (s.stored nxt).wr s.pstart) =
      s.ringRun s.pstart (cursorSub s.cfg.cursorW s.wr s.pstart) ++ [s.acc] := by
  have hle := hs.pstart_le_wr
  have hnext : s.ahead (s.stored nxt).wr = s.ahead s.wr + 1 := hs.ahead_next hroom
  have hcount : cursorSub s.cfg.cursorW (s.stored nxt).wr s.pstart = cursorSub s.cfg.cursorW s.wr s.pstart + 1 := by
    rw [cursorSub_sub hle, cursorSub_sub (Nat.le_succ_of_le hle |>.trans_eq hnext.symm)]
    simp only [State.ahead] at hle hnext
    omega
  have hold : (s.stored nxt).ringRun s.pstart (cursorSub s.cfg.cursorW s.wr s.pstart) = _ :=
    State.ringRun_congr (s := s) (t := s.stored nxt) rfl hle fun c hc => hs.stored_ringRead hroom nxt hc
  have hwr : cursorAdd (s.stored nxt).cfg.cursorW s.pstart (cursorSub s.cfg.cursorW s.wr s.pstart) = s.wr :=
    (cursorAdd_sub _ _ _).trans (Nat.mod_eq_of_lt hs.wr_lt)
  have hbyte : (s.stored nxt).ringRead s.wr = s.acc := Memory.read_write_same hring _ _
  rw [hcount, State.ringRun_succ, hold, hwr, hbyte]

/-- The pushed byte goes to the end of the received run and into the running XOR (41_decoder R165). -/
theorem ChecksumInv.stored {s : State} (hring : Memory.wf s.ring) (hc : CursorInv s) (hs : ChecksumInv s)
    (hroom : s.ahead s.wr < s.cfg.ringSize) (nxt : Byte) : ChecksumInv (s.stored nxt) where
  running := by
    calc s.rxor ^^^ s.acc
        = xorBytes (s.ringRun s.pstart (cursorSub s.cfg.cursorW s.wr s.pstart) ++ [s.acc]) := by
          rw [xorBytes_append, ← hs.running]
          simp [xorBytes]
      _ = xorBytes ((s.stored nxt).ringRun s.pstart (cursorSub s.cfg.cursorW (s.stored nxt).wr s.pstart)) := by
          rw [hc.stored_run hring hroom]
  published := hs.published.congr (s := s) (t := s.stored nxt) rfl rfl
    (fun _ h => hc.stored_ringRead hroom nxt (Nat.lt_of_lt_of_le h hc.pstart_le_wr)) hc.runs_ordered

/-- An End publishes only with the running XOR zero, and the received run becomes the last published one (41_decoder
R166). -/
theorem ChecksumInv.published_of_good {s : State} (hc : CursorInv s) (hs : ChecksumInv s) (hgood : s.rxor = 0) :
    ChecksumInv s.published where
  running := by
    have hempty : cursorSub s.published.cfg.cursorW s.published.wr s.published.pstart = 0 := by
      show cursorSub s.cfg.cursorW s.wr (alignUp s.cfg.cursorW s.wr s.cfg.startAlign) = 0
      rw [hc.alignUp_eq hc.wr_lt, cursorSub_self]
    rw [hempty]
    exact hgood
  published := by
    have hlast := hs.running.symm.trans hgood
    have hclosed := hs.published.concat hlast (s.handoff ++ [s.wr])
    show RunsGood s.published s.rd (s.handoff ++ [s.wr])
    rw [State.published, hc.alignUp_eq hc.wr_lt]
    exact hclosed

/-! ### Copy-out and reset -/

theorem CursorInv.popped_lt {s : State} (hs : CursorInv s) {endOff : Nat} {rest : List Nat}
    (hq : s.handoff = endOff :: rest) : endOff < 2 ^ s.cfg.cursorW :=
  hs.fit _ (by simp [State.cursors, hq])

/-- With `START_ALIGN = 1` the popped end offset is the next read cursor. -/
theorem CursorInv.copyOut_eq {s : State} (hs : CursorInv s) {endOff : Nat} {rest : List Nat}
    (hq : s.handoff = endOff :: rest) :
    ∃ raw rawlen oversize, s.copyOut endOff rest =
      { s with handoff := rest, raw := raw, rawlen := rawlen, oversize := oversize, rd := endOff, rdRelease := endOff } := by
  rcases Nat.lt_or_ge Config.pktMaxBytes (cursorSub s.cfg.cursorW endOff s.rd) with hl | hl
  · rw [s.copyOut_long rest hl, hs.alignUp_eq (hs.popped_lt hq)]
    exact ⟨_, _, _, rfl⟩
  · rw [s.copyOut_short rest hl, hs.alignUp_eq (hs.popped_lt hq)]
    exact ⟨_, _, _, rfl⟩

theorem CursorInv.copyOut {s : State} (hs : CursorInv s) {endOff : Nat} {rest : List Nat}
    (hq : s.handoff = endOff :: rest) : CursorInv (s.copyOut endOff rest) := by
  obtain ⟨hseen, -, -, hstart, hwr, hfit⟩ := State.cursorsFit_iff.mp hs.fit
  have hend := hs.popped_lt hq
  have hrest : ∀ c ∈ rest, c < 2 ^ s.cfg.cursorW := fun c hc => hfit c (hq ▸ List.mem_cons_of_mem _ hc)
  have hordered : (endOff :: rest ++ [s.pstart, s.wr]).Pairwise fun a b => s.ahead a ≤ s.ahead b := by
    have := (List.pairwise_cons.mp hs.ordered).2
    rwa [hq] at this
  obtain ⟨raw, rawlen, oversize, h⟩ := hs.copyOut_eq hq
  rw [h]
  exact { hs with
    fit := State.cursorsFit_iff.mpr ⟨hseen, hend, hend, hstart, hwr, hrest⟩
    released := rfl
    ordered := hordered }

/-- The copy-out takes the first of the good runs and leaves the others. -/
theorem ChecksumInv.copyOut {s : State} (hc : CursorInv s) (hs : ChecksumInv s) {endOff : Nat} {rest : List Nat}
    (hq : s.handoff = endOff :: rest) : ChecksumInv (s.copyOut endOff rest) := by
  have hruns := hs.published
  have hordered := hc.runs_ordered
  rw [hq] at hruns hordered
  obtain ⟨-, hrest⟩ := hruns
  obtain ⟨-, hordered⟩ := List.pairwise_cons.mp hordered
  obtain ⟨raw, rawlen, oversize, h⟩ := hc.copyOut_eq hq
  rw [h]
  refine ⟨hs.running, ?_⟩
  refine RunsGood.congr (s := s) ?_ ?_ (fun _ _ => ?_) hordered hrest <;> rfl

theorem CursorInv.afterRst {s : State} (hs : CursorInv s) : CursorInv s.afterRst where
  align := hs.align
  size := hs.size
  fit := by
    have h0 := Nat.two_pow_pos s.cfg.cursorW
    exact State.cursorsFit_iff.mpr ⟨h0, h0, h0, h0, h0, nofun⟩
  released := rfl
  ordered := by
    show [0, 0, 0].Pairwise fun a b => s.afterRst.ahead a ≤ s.afterRst.ahead b
    simp
  room := (cursorSub_self _ _).trans_le (Nat.zero_le _)

theorem State.afterRst_checksumInv (s : State) : ChecksumInv s.afterRst where
  running := by
    have hempty : cursorSub s.afterRst.cfg.cursorW s.afterRst.wr s.afterRst.pstart = 0 := cursorSub_self _ _
    rw [hempty]
    rfl
  published := rfl

/-! ### The published packets stay in place -/

/-- From `s` to `u` the packet start does not fall back, and what lies before the packet start of `s` reads as before. -/
structure KeepsPublished (s u : State) : Prop where
  cfg : u.cfg = s.cfg
  rd : u.rd = s.rd
  grows : cursorSub s.cfg.cursorW s.pstart s.rd ≤ cursorSub s.cfg.cursorW u.pstart s.rd
  stable : ∀ c, cursorSub s.cfg.cursorW c s.rd < cursorSub s.cfg.cursorW s.pstart s.rd → u.ringRead c = s.ringRead c

theorem KeepsPublished.refl (s : State) : KeepsPublished s s := ⟨rfl, rfl, le_refl _, fun _ _ => rfl⟩

theorem KeepsPublished.trans {s t u : State} (h : KeepsPublished s t) (k : KeepsPublished t u) : KeepsPublished s u := by
  obtain ⟨hcfg, hrd, hgrows, hstable⟩ := k
  rw [h.cfg, h.rd] at hgrows hstable
  exact ⟨hcfg.trans h.cfg, hrd.trans h.rd, h.grows.trans hgrows,
    fun c hc => (hstable c (Nat.lt_of_lt_of_le hc h.grows)).trans (h.stable c hc)⟩

theorem SameStorage.keepsPublished {s t : State} (h : SameStorage s t) : KeepsPublished s t where
  cfg := h.constants.cfg
  rd := h.rd
  grows := by rw [h.pstart]
  stable := fun c _ => State.ringRead_congr h.ring h.constants.cfg c

theorem KeepsPublished.ringRead {s u : State} (h : KeepsPublished s u) {c : Nat}
    (hc : cursorSub s.cfg.cursorW c u.rd < cursorSub s.cfg.cursorW s.pstart u.rd) : u.ringRead c = s.ringRead c := by
  rw [h.rd] at hc
  exact h.stable c hc

theorem CursorInv.stored_keepsPublished {s : State} (hs : CursorInv s) (hroom : s.ahead s.wr < s.cfg.ringSize)
    (nxt : Byte) : KeepsPublished s (s.stored nxt) :=
  ⟨rfl, rfl, le_refl _, fun _ hc =>
    hs.stored_ringRead hroom nxt (Nat.lt_of_lt_of_le (hs.ahead_of_rd hc) hs.pstart_le_wr)⟩

theorem CursorInv.published_keepsPublished {s : State} (hs : CursorInv s) : KeepsPublished s s.published := by
  refine ⟨rfl, rfl, ?_, fun _ _ => rfl⟩
  show cursorSub s.cfg.cursorW s.pstart s.rd ≤
    cursorSub s.cfg.cursorW (alignUp s.cfg.cursorW s.wr s.cfg.startAlign) s.rd
  have hle := hs.pstart_le_wr
  rw [hs.alignUp_eq hs.wr_lt, cursorSub_sub hs.rd_le_pstart, cursorSub_sub (hs.rd_le_pstart.trans hle)]
  exact Nat.sub_le_sub_right hle _

/-! ### The step -/

/-- The invariants of the ring that a decoder step keeps together. -/
structure RingInv (s : State) : Prop where
  memories : MemoriesFit s
  cursors : CursorInv s
  checksums : ChecksumInv s

theorem RingInv.same {s t : State} (h : SameStorage s t) (hs : RingInv s) : RingInv t :=
  ⟨hs.memories.same h, hs.cursors.same h, hs.checksums.same h hs.cursors⟩

/-- A capture turn keeps the invariants and every packet published before it. -/
theorem RingInv.of_captureTurn {s t : State} (hs : RingInv s) (h : captureTurn s = .next t) :
    RingInv t ∧ KeepsPublished s t :=
  captureTurn_induction (P := fun u => RingInv u ∧ KeepsPublished s u) h ⟨hs, .refl s⟩
    (same := fun _ _ huv ⟨hu, hk⟩ => ⟨hu.same huv, hk.trans huv.keepsPublished⟩)
    (draw := fun _ x hx ⟨hu, hk⟩ =>
      ⟨⟨{ hu.memories with }, hu.cursors.draw hx, hu.checksums.draw hu.cursors x⟩, { hk with }⟩)
    (reset := fun _ ⟨hu, hk⟩ =>
      ⟨⟨{ hu.memories with }, hu.cursors.actReset, hu.checksums.actReset hu.cursors⟩, { hk with }⟩)
    (store := fun _ nxt hroom ⟨hu, hk⟩ =>
      ⟨⟨hu.memories.stored nxt, hu.cursors.stored hroom nxt,
        hu.checksums.stored hu.memories.ringForm hu.cursors hroom nxt⟩,
        hk.trans (hu.cursors.stored_keepsPublished hroom nxt)⟩)
    (publish := fun _ hgood ⟨hu, hk⟩ =>
      ⟨⟨{ hu.memories with }, hu.cursors.published, hu.checksums.published_of_good hu.cursors hgood⟩,
        hk.trans hu.cursors.published_keepsPublished⟩)

theorem RingInv.of_dispatchTurn {s t : State} (hs : RingInv s) (h : dispatchTurn s = .next t) : RingInv t :=
  dispatchTurn_induction h hs (same := fun _ _ huv hu => hu.same huv)
    (copyOut := fun endOff rest hq =>
      ⟨hs.memories.copyOut endOff rest, hs.cursors.copyOut hq, hs.checksums.copyOut hs.cursors hq⟩)

theorem RingInv.afterRst {s : State} (hs : RingInv s) : RingInv s.afterRst :=
  ⟨s.afterRst_memoriesFit, hs.cursors.afterRst, s.afterRst_checksumInv⟩

/-- The three invariants of the ring are kept together by every step. -/
theorem RingInv.of_step {s t : State} (hs : RingInv s) (h : step s = .next t) : RingInv t :=
  step_induction h hs (same := fun _ _ huv hu => hu.same huv) (rst := fun _ hu => hu.afterRst)
    (capture := fun _ _ hu h => (hu.of_captureTurn h).1) (dispatch := fun _ _ hu h => hu.of_dispatchTurn h)

/-- Without reset the published packets that are not copied out stay in place: a capture turn keeps them, and a dispatch turn
does not write the ring (`agentsKeepToTheirState`). -/
theorem RingInv.ringRead_of_step {s t : State} (hs : RingInv s) (h : step s = .next t) (hr : s.input.rst = false) {c : Nat}
    (hc : cursorSub s.cfg.cursorW c t.rd < cursorSub s.cfg.cursorW s.pstart t.rd) : t.ringRead c = s.ringRead c := by
  have hin : KeepsPublished s s.intake := s.intake_sameStorage.keepsPublished
  rcases (step_next h).2 with ⟨hrst, -⟩ | ⟨-, -, rfl⟩ | ⟨-, -, -, u, hu, rfl⟩ | ⟨-, -, hg, -⟩
  · exact absurd hrst (by simp [hr])
  · exact hin.stable c hc
  · have hturn := hin.trans ((hs.same s.intake_sameStorage).of_captureTurn hu).2
    exact (hturn.trans u.advance_sameStorage.keepsPublished).ringRead hc
  · obtain ⟨-, hdispatch⟩ := agentsKeepToTheirState s t h hr
    obtain ⟨hcapture, -, -⟩ := hdispatch hg
    exact State.ringRead_congr hcapture.ring (stepKeepsConstantMemories s t h).cfg c

/-- Settles O59: the checksum invariant is kept together with the cursor invariants and the form of the memories
(`RingInv.of_step`), and published packets stay in place (`RingInv.ringRead_of_step`). -/
theorem stepKeepsPublishedPacketsGood : Obligations.StepKeepsPublishedPacketsGood := by
  intro s t hm hc hs h
  have hinv : RingInv s := ⟨hm, hc, hs⟩
  exact ⟨(hinv.of_step h).checksums, fun hr _ => hinv.ringRead_of_step h hr⟩

end Sys2Proof.Machine

/-! SUPPORT. The matcher against the fifteen request rows (44_dispatch R250 to R269): the first row a request meets answers it,
and the accepted codes are those under which no request meets a second one. -/

namespace Sys2Proof.Machine

/-! ### Routing, and what a row tests -/

theorem routeTo_none_iff {c : Config.Codes} {dst : Byte} :
    routeTo c dst = none ↔ dst ≠ c.addrController ∧ dst ≠ c.addrSub0 ∧ dst ≠ c.addrSub1 := by
  unfold routeTo
  split_ifs <;> simp_all

/-- A Destination that routes to a table is the table's address. -/
theorem eq_tableAddr_of_routeTo {c : Config.Codes} {dst : Byte} {t : CommandTable} (h : routeTo c dst = some t) :
    dst = tableAddr c t := by
  unfold routeTo at h
  split_ifs at h with hctrl hmc hvib <;> cases h
  · exact hctrl
  · exact hmc
  · exact hvib

theorem realCommand_iff {cmd : Byte} : realCommand cmd = true ↔ 0 < cmd.toInt := decide_eq_true_iff

/-- The function code of a request is the one the row compares, if it compares one. -/
def RequestRow.funcMatches (r : RequestRow) (payload : List Word) : Prop := ∀ f, r.func = some f → payload[0]? = some f

section Rows

variable {k : Fin 7} {c : Config.Codes} {r t : RequestRow} {dst cmd : Byte} {payload : List Word}

theorem RequestRow.holds_iff :
    r.holds c dst cmd payload = true ↔
      routeTo c dst = some r.table ∧ cmd = r.cmd ∧ realCommand cmd = true ∧ r.minWords ≤ payload.length ∧
        r.funcMatches payload := by
  unfold RequestRow.holds RequestRow.funcMatches
  cases r.func <;> simp [and_assoc]

theorem RequestRow.clash_iff :
    r.clash k c t = true ↔
      addrId k (tableAddr c r.table) = tableAddr c r.table ∧ routeTo c (tableAddr c r.table) = some r.table ∧
        realCommand r.cmd = true ∧ r.table = t.table ∧ r.cmd = t.cmd ∧
        ∀ f g, r.func = some f → t.func = some g → f = g := by
  unfold RequestRow.clash RequestRow.reachable
  cases r.func <;> cases t.func <;> simp [and_assoc]

/-! ### Codes under which no request meets two rows -/

/-- Two rows that one request meets clash. -/
theorem RequestRow.clash_of_holds (hdst : addrId k dst = dst) (hr : r.holds c dst cmd payload = true)
    (ht : t.holds c dst cmd payload = true) : r.clash k c t = true := by
  obtain ⟨hroute, hcmd, hreal, -, hfunc⟩ := RequestRow.holds_iff.mp hr
  obtain ⟨hroute', hcmd', -, -, hfunc'⟩ := RequestRow.holds_iff.mp ht
  obtain rfl := eq_tableAddr_of_routeTo hroute
  refine RequestRow.clash_iff.mpr ⟨hdst, hroute, hcmd ▸ hreal, ?_, hcmd.symm.trans hcmd', fun f g hf hg => ?_⟩
  · exact Option.some.inj (hroute.symm.trans hroute')
  · exact Option.some.inj ((hfunc f hf).symm.trans (hfunc' g hg))

/-- A payload that has enough words for every row and begins with the function code that one of two rows compares. -/
def clashPayload (r t : RequestRow) : List Word := (r.func.or t.func).getD 0 :: List.replicate 33 0

/-- Some request meets both of two clashing rows. -/
theorem RequestRow.holds_of_clash (hr : r.minWords ≤ 34) (ht : t.minWords ≤ 34) (h : r.clash k c t = true) :
    r.holds c (tableAddr c r.table) r.cmd (clashPayload r t) = true ∧
      t.holds c (tableAddr c r.table) r.cmd (clashPayload r t) = true := by
  obtain ⟨-, hroute, hreal, htable, hcmd, hfunc⟩ := RequestRow.clash_iff.mp h
  have hlen : (clashPayload r t).length = 34 := rfl
  refine ⟨RequestRow.holds_iff.mpr ⟨hroute, rfl, hreal, hlen ▸ hr, fun f hf => ?_⟩,
    RequestRow.holds_iff.mpr ⟨htable ▸ hroute, hcmd, hreal, hlen ▸ ht, fun g hg => ?_⟩⟩
  · simp [clashPayload, hf]
  · cases hf : r.func with
    | none => simp [clashPayload, hf, hg]
    | some f => simp [clashPayload, hf, hfunc f g hf hg]

theorem requestRows_minWords (hr : r ∈ requestRows c) : r.minWords ≤ 34 := by
  revert r
  simp [requestRows]

theorem codesLegal_iff :
    codesLegal k c = true ↔
      ∀ (i j : Nat) (r t : RequestRow), i < j → (requestRows c)[i]? = some r → (requestRows c)[j]? = some t →
        r.clash k c t = false := by
  rw [codesLegal, decide_eq_true_iff, List.pairwise_iff_getElem]
  constructor
  · intro h i j r t hij hi hj
    obtain ⟨hi', rfl⟩ := List.getElem?_eq_some_iff.mp hi
    obtain ⟨hj', rfl⟩ := List.getElem?_eq_some_iff.mp hj
    exact h i j hi' hj' hij
  · intro h i j hi hj hij
    exact h i j _ _ hij (List.getElem?_eq_getElem hi) (List.getElem?_eq_getElem hj)

/-- Under accepted codes a request meets one row at most (44_dispatch R250). -/
theorem row_unique (hc : codesLegal k c = true) (hdst : addrId k dst = dst) {i j : Nat}
    (hi : (requestRows c)[i]? = some r) (hj : (requestRows c)[j]? = some t) (hr : r.holds c dst cmd payload = true)
    (ht : t.holds c dst cmd payload = true) : i = j := by
  rcases lt_trichotomy i j with hij | hij | hij
  · exact absurd (RequestRow.clash_of_holds hdst hr ht) (by simp [codesLegal_iff.mp hc i j r t hij hi hj])
  · exact hij
  · exact absurd (RequestRow.clash_of_holds hdst ht hr) (by simp [codesLegal_iff.mp hc j i t r hij hj hi])

/-- The accepted codes are those under which no request meets two rows (notes/assumptions/25). -/
theorem codesLegal_iff_row_unique :
    codesLegal k c = true ↔
      ∀ (dst cmd : Byte) (payload : List Word) (i j : Nat) (r t : RequestRow), addrId k dst = dst → payload.length ≤ 255 →
        (requestRows c)[i]? = some r → (requestRows c)[j]? = some t → r.holds c dst cmd payload = true →
        t.holds c dst cmd payload = true → i = j := by
  refine ⟨fun hc dst cmd payload i j r t hdst _ => row_unique hc hdst, fun h => codesLegal_iff.mpr ?_⟩
  intro i j r t hij hi hj
  by_contra hclash
  rw [Bool.not_eq_false] at hclash
  obtain ⟨hr, ht⟩ := RequestRow.holds_of_clash (requestRows_minWords (List.mem_of_getElem? hi))
    (requestRows_minWords (List.mem_of_getElem? hj)) hclash
  have hmasked : addrId k (tableAddr c r.table) = tableAddr c r.table := (RequestRow.clash_iff.mp hclash).1
  exact hij.ne (h _ _ (clashPayload r t) i j r t hmasked (by simp [clashPayload]) hi hj hr ht)

end Rows

/-! ### The matcher answers with the first row a request meets -/

/-- The operations of the fifteen rows, in the order of `requestRows`. -/
def rowOperations (q : Req) : List Instr :=
  [.rdiCtrl q, .rdiMc q, .rdiVib q, .getcondCtrl q, .getcondVib q, .getmediaMc q, .getmediaLcd q, .getmediaVib q, .bwriteMc q,
    .bwriteLcd q, .breadMc q, .breadVib q, .bwriteVib q, .bcompleteMc q, .setcondVib q]

section Matcher

variable {k : Fin 7} {c : Config.Codes} {q : Req} {dst cmd : Byte}

/-- The answer of the first row that the request meets; without one it is `UNREC` (44_dispatch R267, R268). -/
def firstRow (c : Config.Codes) (q : Req) (dst cmd : Byte) : List (RequestRow × Instr) → Instr
  | [] => .unrec q dst cmd
  | (r, i) :: rest =>
    if r.holds c dst cmd q.payload then if r.phaseAllowed q.payload then i else .badPhase q dst cmd
    else firstRow c q dst cmd rest

theorem firstRow_of_none {rows : List (RequestRow × Instr)} (h : ∀ p ∈ rows, p.1.holds c dst cmd q.payload = false) :
    firstRow c q dst cmd rows = .unrec q dst cmd := by
  induction rows with
  | nil => rfl
  | cons p rows ih =>
    rw [firstRow, h p List.mem_cons_self, if_neg Bool.false_ne_true]
    exact ih fun p hp => h p (List.mem_cons_of_mem _ hp)

/-- The row that is the only one the request meets answers it. -/
theorem firstRow_of_unique {rows : List (RequestRow × Instr)} {j : Nat} {r : RequestRow} {i : Instr}
    (hj : rows[j]? = some (r, i)) (hr : r.holds c dst cmd q.payload = true)
    (huniq : ∀ j' p, rows[j']? = some p → p.1.holds c dst cmd q.payload = true → j' = j) :
    firstRow c q dst cmd rows = if r.phaseAllowed q.payload then i else .badPhase q dst cmd := by
  induction rows generalizing j with
  | nil => cases hj
  | cons p rows ih =>
    cases j with
    | zero =>
      obtain rfl : p = (r, i) := Option.some.inj hj
      rw [firstRow, if_pos hr]
    | succ j =>
      have hp : ¬p.1.holds c dst cmd q.payload = true := fun hp => nomatch huniq 0 p rfl hp
      rw [firstRow, if_neg hp]
      exact ih hj fun j' p' hj' hp' => Nat.succ.inj (huniq (j' + 1) p' hj' hp')

/-- The Phases that the block writes allow (44_dispatch R260, R264). -/
theorem phase_upto_three (b : Byte) : (b = 0#8 ∨ b = 1#8 ∨ b = 2#8 ∨ b = 3#8) ↔ b.toNat ≤ 3 := by bv_omega

/-- A request with a function code has a payload word. -/
theorem one_word_of_func {payload : List Word} {f : Word} :
    (payload[0]? = some f ∧ 1 ≤ payload.length) ↔ payload[0]? = some f :=
  and_iff_left_of_imp fun h => (List.getElem?_eq_some_iff.mp h).1

/-- A Command that is no real one meets no row (30_encoding R103). -/
theorem RequestRow.holds_of_unreal (r : RequestRow) {payload : List Word} (h : realCommand cmd = false) :
    r.holds c dst cmd payload = false := by
  simp [RequestRow.holds, h]

theorem matchRequest_of_unreal {t : CommandTable} (ht : routeTo c dst = some t) (h : realCommand cmd = false) :
    matchRequest c q dst cmd = .unrec q dst cmd := by
  simp [matchRequest, ht, h]

theorem matchRequest_of_foreign (h : routeTo c dst = none) : matchRequest c q dst cmd = .notOurs q dst cmd := by
  simp [matchRequest, h]

/-- Each table tests its commands in the order of the rows, so the matcher answers as the first row that is met. -/
theorem matchRequest_eq_firstRow {t : CommandTable} (h : routeTo c dst = some t) :
    matchRequest c q dst cmd = firstRow c q dst cmd ((requestRows c).zip (rowOperations q)) := by
  cases hreal : realCommand cmd with
  | false => rw [matchRequest_of_unreal h hreal, firstRow_of_none fun p _ => p.1.holds_of_unreal hreal]
  | true =>
    have hcodeFirst : ∀ (n : Nat) (f : Word), (n ≤ q.payload.length ∧ q.payload[0]? = some f) ↔
        (q.payload[0]? = some f ∧ n ≤ q.payload.length) := fun _ _ => and_comm
    cases t <;>
      simp [matchRequest, matchCtrl, matchMc, matchVib, phaseGate, h, hreal, requestRows, rowOperations, firstRow,
        RequestRow.holds, RequestRow.phaseAllowed, and_assoc, hcodeFirst, one_word_of_func,
        phase_upto_three]

theorem getElem?_zip_rows {j : Nat} {r : RequestRow} {i : Instr} :
    ((requestRows c).zip (rowOperations q))[j]? = some (r, i) ↔
      (requestRows c)[j]? = some r ∧ (rowOperations q)[j]? = some i := List.getElem?_zip_eq_some

/-- Under accepted codes the row that a request meets answers it (44_dispatch R250, R267). -/
theorem matchRequest_of_row (hc : codesLegal k c = true) (hdst : addrId k dst = dst) {j : Nat} {r : RequestRow} {i : Instr}
    (hj : (requestRows c)[j]? = some r) (hi : (rowOperations q)[j]? = some i) (hr : r.holds c dst cmd q.payload = true) :
    matchRequest c q dst cmd = if r.phaseAllowed q.payload then i else .badPhase q dst cmd := by
  obtain ⟨hroute, -, -, -, -⟩ := RequestRow.holds_iff.mp hr
  rw [matchRequest_eq_firstRow hroute]
  refine firstRow_of_unique (getElem?_zip_rows.mpr ⟨hj, hi⟩) hr fun j' p hp ht => ?_
  exact row_unique hc hdst (getElem?_zip_rows.mp hp).1 hj ht hr

/-- A request that meets no row of its table is `UNREC` (44_dispatch R268). -/
theorem matchRequest_of_no_row {t : CommandTable} (ht : routeTo c dst = some t)
    (h : ∀ r ∈ requestRows c, r.holds c dst cmd q.payload = false) : matchRequest c q dst cmd = .unrec q dst cmd := by
  rw [matchRequest_eq_firstRow ht]
  exact firstRow_of_none fun p hp => h p.1 (List.of_mem_zip hp).1

end Matcher

/-! ### The statements -/

/-- Settles O3: the accepted codes by `codesLegal_iff_row_unique`; the matcher is the first row met
(`matchRequest_eq_firstRow`), which under accepted codes is the only one. -/
theorem matcherFollowsRows : Obligations.MatcherFollowsRows := by
  refine fun k c => ⟨codesLegal_iff_row_unique, fun q dst cmd hc hdst => ⟨fun hforeign => ?foreign,
    fun j r i hj hi hr => ?row, fun hours hnone => ?noRow⟩⟩
  case foreign => exact matchRequest_of_foreign (routeTo_none_iff.mpr hforeign)
  case row =>
    obtain ⟨-, -, hreal, -, -⟩ := RequestRow.holds_iff.mp hr
    exact ⟨realCommand_iff.mp hreal, matchRequest_of_row hc hdst hj hi hr⟩
  case noRow =>
    obtain ⟨t, ht⟩ : ∃ t, routeTo c dst = some t := by
      rw [← Option.ne_none_iff_exists', ne_eq, routeTo_none_iff]
      tauto
    exact matchRequest_of_no_row ht hnone

/-- Settles O38: the routing and the test for a real command decide the two non-matches, and a drop keeps the state. -/
theorem nonMatchesChangeNothing : Obligations.NonMatchesChangeNothing := by
  intro q dst cmd s c hf _
  refine ⟨fun hctrl hmc hvib => ?foreign, fun t ht hcmd => ?unreal, whenLive_of_live hf _, whenLive_of_live hf _,
    whenLive_of_live hf _⟩
  case foreign => exact matchRequest_of_foreign (routeTo_none_iff.mpr ⟨hctrl, hmc, hvib⟩)
  case unreal => exact matchRequest_of_unreal ht (decide_eq_false (Int.not_lt.mpr hcmd))

end Sys2Proof.Machine

/-! SUPPORT. The fields of a header word, raw packets read back from their bytes, and the decoder on the code of every
well-formed operation (30_encoding R95 to R113; 43_validator R220 to R231). -/

namespace Sys2Proof.Machine

/-! ### Address bytes (30_encoding R102) -/

section Address

variable {k : Fin 7} {port : BitVec 2} {id : Byte}

/-- The port bits of an address byte are those of the mask. -/
theorem port_and_portMask (k : Fin 7) (port : BitVec 2) : (port.setWidth 8 <<< k.val) &&& ~~~portMask k = 0#8 := by
  revert k port; decide

theorem addrPort_port (k : Fin 7) (port : BitVec 2) : addrPort k (port.setWidth 8 <<< k.val) = port := by
  revert k port; decide

theorem addrPort_or (k : Fin 7) (a b : Byte) : addrPort k (a ||| b) = addrPort k a ||| addrPort k b :=
  BitVec.extractLsb'_or

theorem addrId_idem (k : Fin 7) (a : Byte) : addrId k (addrId k a) = addrId k a := by
  simp only [addrId, BitVec.and_assoc, BitVec.and_self]

/-- A masked address has no port bits. -/
theorem addrPort_addrId (k : Fin 7) (a : Byte) : addrPort k (addrId k a) = 0#2 := by
  have hmask : addrPort k (~~~portMask k) = 0#2 := by revert k; decide
  calc addrPort k (addrId k a) = addrPort k a &&& addrPort k (~~~portMask k) := BitVec.extractLsb'_and
    _ = 0#2 := by rw [hmask, BitVec.and_zero]

/-- The address byte of a port and a masked address has that port. -/
theorem addrPort_addrByte (h : addrId k id = id) : addrPort k (addrByte k port id) = port := by
  have hid : addrPort k id = 0#2 := h ▸ addrPort_addrId k id
  rw [addrByte, addrPort_or, addrPort_port, hid, BitVec.or_zero]

theorem addrId_addrByte (h : addrId k id = id) : addrId k (addrByte k port id) = id := by
  calc addrId k (addrByte k port id)
      = (port.setWidth 8 <<< k.val) &&& ~~~portMask k ||| addrId k id := BitVec.and_or_distrib_right
    _ = id := by rw [port_and_portMask, h, BitVec.zero_or]

end Address

/-! ### The port patch (45_response_mux R303)

A field of the patched header is the field of the header outside the mask, with the port's bits in it. -/

section PortPatch

variable (k : Fin 7) (h : Word) (p : BitVec 2)

theorem extract_patchHeader (i : Nat) :
    (patchHeader k h p).extractLsb' i 8 =
      (h.extractLsb' i 8 &&& (~~~headerPorts k 3).extractLsb' i 8) ||| (headerPorts k p).extractLsb' i 8 := by
  rw [patchHeader, BitVec.extractLsb'_or, BitVec.extractLsb'_and]

/-- The patched header names the same Origin at the new port. -/
theorem hdrOrigin_patchHeader : hdrOrigin (patchHeader k h p) = addrByte k p (addrId k (hdrOrigin h)) := by
  have hmask : (~~~headerPorts k 3).extractLsb' 16 8 = ~~~portMask k := by revert k; decide
  have hport : (headerPorts k p).extractLsb' 16 8 = p.setWidth 8 <<< k.val := by revert k p; decide
  rw [hdrOrigin, extract_patchHeader, hmask, hport, BitVec.or_comm]
  rfl

/-- The patched header names the same Destination at the new port. -/
theorem hdrDest_patchHeader : hdrDest (patchHeader k h p) = addrByte k p (addrId k (hdrDest h)) := by
  have hmask : (~~~headerPorts k 3).extractLsb' 8 8 = ~~~portMask k := by revert k; decide
  have hport : (headerPorts k p).extractLsb' 8 8 = p.setWidth 8 <<< k.val := by revert k p; decide
  rw [hdrDest, extract_patchHeader, hmask, hport, BitVec.or_comm]
  rfl

theorem hdrCount_patchHeader : hdrCount (patchHeader k h p) = hdrCount h := by
  have hmask : (~~~headerPorts k 3).extractLsb' 24 8 = BitVec.allOnes 8 := by revert k; decide
  have hport : (headerPorts k p).extractLsb' 24 8 = 0#8 := by revert k p; decide
  rw [hdrCount, extract_patchHeader, hmask, hport, BitVec.and_allOnes, BitVec.or_zero, hdrCount]

theorem hdrCommand_patchHeader : hdrCommand (patchHeader k h p) = hdrCommand h := by
  have hmask : (~~~headerPorts k 3).extractLsb' 0 8 = BitVec.allOnes 8 := by revert k; decide
  have hport : (headerPorts k p).extractLsb' 0 8 = 0#8 := by revert k p; decide
  rw [hdrCommand, extract_patchHeader, hmask, hport, BitVec.and_allOnes, BitVec.or_zero, hdrCommand]

end PortPatch

/-- Settles O25: the patched address fields are address bytes of the port and the masked addresses, and the other two fields
hold no port bits. -/
theorem portPatchKeepsOtherFields : Obligations.PortPatchKeepsOtherFields := by
  intro k h p
  rw [hdrOrigin_patchHeader, hdrDest_patchHeader]
  refine ⟨addrPort_addrByte (addrId_idem _ _), addrPort_addrByte (addrId_idem _ _), addrId_addrByte (addrId_idem _ _),
    addrId_addrByte (addrId_idem _ _), hdrCount_patchHeader k h p, hdrCommand_patchHeader k h p, ?defaultPlace⟩
  case defaultPlace =>
    have hmask : ~~~headerPorts 6 3 = 0xFF3F3FFF := by decide
    rw [patchHeader, hmask, headerPorts, ← BitVec.or_assoc]
    rfl

/-! ### Header words and raw packets (30_encoding R100 to R102, R119) -/

section Words

variable (b0 b1 b2 b3 : Byte)

@[simp] theorem hdrCount_be32 : hdrCount (be32 b0 b1 b2 b3) = b0 := by
  ext i hi
  grind [hdrCount, be32]

@[simp] theorem hdrOrigin_be32 : hdrOrigin (be32 b0 b1 b2 b3) = b1 := by
  ext i hi
  grind [hdrOrigin, be32]

@[simp] theorem hdrDest_be32 : hdrDest (be32 b0 b1 b2 b3) = b2 := by
  ext i hi
  grind [hdrDest, be32]

@[simp] theorem hdrCommand_be32 : hdrCommand (be32 b0 b1 b2 b3) = b3 := by
  ext i hi
  grind [hdrCommand, be32]

end Words

/-- A word is the one its bytes in wire order make (20_memory R69, R70). -/
theorem be32_wordBytes (w : Word) :
    be32 (w.extractLsb' 24 8) (w.extractLsb' 16 8) (w.extractLsb' 8 8) (w.extractLsb' 0 8) = w := by
  ext i hi
  grind [be32]

/-- A trailing byte belongs to no word (43_validator R227). -/
theorem bytesToWords_wordsBytes (ws : List Word) (x : Byte) : bytesToWords (wordsBytes ws ++ [x]) = ws := by
  induction ws with
  | nil => rfl
  | cons w ws ih =>
    have hbytes : wordsBytes (w :: ws) ++ [x] =
        w.extractLsb' 24 8 :: w.extractLsb' 16 8 :: w.extractLsb' 8 8 :: w.extractLsb' 0 8 :: (wordsBytes ws ++ [x]) := rfl
    rw [hbytes, bytesToWords, ih, be32_wordBytes]

/-- The raw packet of a header with the right count passes both length tests and holds its words. -/
theorem packetWords_rawOfWords {h : Word} {ws : List Word} (hcount : (hdrCount h).toNat = ws.length) :
    packetWords (rawOfWords (h :: ws)) = some (h :: ws) := by
  have hlen : (rawOfWords (h :: ws)).length = 4 * (ws.length + 1) + 1 := by
    simp [rawOfWords, Laws.EncodeFits.wordsBytes_length]
  exact packetWords_some.mpr ⟨by omega, bytesToWords_wordsBytes _ _, by omega⟩

/-! ### The decoder on the codes of operations -/

section DecodeEncode

variable {p : Config.Params} {q : Req} {dst cmd : Byte}

theorem isMasked_iff {a : Byte} : isMasked p a = true ↔ addrId p.portShift a = a := beq_iff_eq

theorem fits_iff : q.fits p = true ↔ q.payload.length ≤ 255 ∧ addrId p.portShift q.orgId = q.orgId := by
  rw [Req.fits, Bool.and_eq_true, decide_eq_true_iff, isMasked_iff]

/-- The packet of a request is read as what the matcher makes of its operands. -/
theorem decode_encodeReq (hq : q.fits p = true) (hdst : addrId p.portShift dst = dst) :
    decode p (encodeReq p.portShift q dst cmd) = .ok (matchRequest p.codes q dst cmd) := by
  obtain ⟨hlen, horg⟩ := fits_iff.mp hq
  have hword : headerWord p.portShift q dst cmd =
      be32 (BitVec.ofNat 8 q.payload.length) (addrByte p.portShift q.orgPort q.orgId) (addrByte p.portShift q.dstPort dst)
        cmd := rfl
  have hcount : (hdrCount (headerWord p.portShift q dst cmd)).toNat = q.payload.length := by
    rw [hword, hdrCount_be32, BitVec.toNat_ofNat]
    omega
  simp only [decode, encodeReq, packetWords_rawOfWords hcount, requestOf]
  rw [hword, hdrOrigin_be32, hdrDest_be32, hdrCommand_be32, addrPort_addrByte horg, addrId_addrByte horg,
    addrPort_addrByte hdst, addrId_addrByte hdst]

/-- The packet of a request that meets row `k` is read as the row's operation. -/
theorem decode_encode_row {k : Nat} {r : RequestRow} {i : Instr} (hp : paramsLegal p = true) (h : q.meets p k = true)
    (hr : (requestRows p.codes)[k]? = some r) (hi : (rowOperations q)[k]? = some i)
    (hcode : encode p i = encodeReq p.portShift q (tableAddr p.codes r.table) r.cmd) : decode p (encode p i) = .ok i := by
  obtain ⟨-, -, -, -, -, hcodes⟩ := paramsLegal_iff.mp hp
  simp only [Req.meets, hr, Bool.and_eq_true, isMasked_iff] at h
  obtain ⟨hq, ⟨hdst, hholds⟩, hphase⟩ := h
  rw [hcode, decode_encodeReq hq hdst, matchRequest_of_row hcodes hdst hr hi hholds, if_pos hphase]

/-- The word of a legal entry is read, at each place it selects, as the action of that place. -/
theorem decode_encode_entry {e : Tte} {slot : Slot} (hp : paramsLegal p = true) (hs : e.selects slot = true)
    (h : entryLegal p e = true) : decode p (.tte slot (packTte p e)) = .ok (e.action slot) := by
  obtain ⟨-, -, -, -, hwidth, -⟩ := paramsLegal_iff.mp hp
  obtain ⟨hnext, -, -⟩ := entryLegal_iff.mp h
  simp [decode, unpack_pack (Nat.lt_of_lt_of_le hnext hwidth), h, hs]

theorem decode_encode_sel {v : BitVec 4} {i : Instr} (hi : selOperation v = some i) (h : decide (v.toNat < p.numSel) = true) :
    decode p (.sel v) = .ok i := by
  simp only [decode, decodeSel, if_pos (of_decide_eq_true h), hi]

theorem decode_encode_notOurs (h : wellFormed p (.notOurs q dst cmd) = true) :
    decode p (encode p (.notOurs q dst cmd)) = .ok (.notOurs q dst cmd) := by
  simp only [wellFormed, Bool.and_eq_true, isMasked_iff, isOurs, Bool.not_eq_true', Option.isSome_eq_false_iff,
    Option.isNone_iff_eq_none] at h
  obtain ⟨⟨hq, hdst⟩, hforeign⟩ := h
  exact (decode_encodeReq hq hdst).trans (congrArg _ (matchRequest_of_foreign hforeign))

theorem decode_encode_unrec (h : wellFormed p (.unrec q dst cmd) = true) :
    decode p (encode p (.unrec q dst cmd)) = .ok (.unrec q dst cmd) := by
  simp only [wellFormed, Bool.and_eq_true, isMasked_iff, isOurs, Bool.not_eq_true', List.any_eq_false,
    Option.isSome_iff_exists, Bool.not_eq_true] at h
  obtain ⟨⟨⟨hq, hdst⟩, t, ht⟩, hnone⟩ := h
  exact (decode_encodeReq hq hdst).trans (congrArg _ (matchRequest_of_no_row ht hnone))

theorem decode_encode_badPhase (hp : paramsLegal p = true) (h : wellFormed p (.badPhase q dst cmd) = true) :
    decode p (encode p (.badPhase q dst cmd)) = .ok (.badPhase q dst cmd) := by
  obtain ⟨-, -, -, -, -, hcodes⟩ := paramsLegal_iff.mp hp
  simp only [wellFormed, Bool.and_eq_true, isMasked_iff, List.any_eq_true, Bool.not_eq_true'] at h
  obtain ⟨⟨hq, hdst⟩, r, hr, hholds, hphase⟩ := h
  obtain ⟨j, hj⟩ := List.mem_iff_getElem?.mp hr
  obtain ⟨i, hi⟩ : ∃ i, (rowOperations q)[j]? = some i :=
    ⟨_, List.getElem?_eq_getElem (show j < 15 from (List.getElem?_eq_some_iff.mp hj).1)⟩
  have hmatch := matchRequest_of_row hcodes hdst hj hi hholds
  rw [hphase, if_neg Bool.false_ne_true] at hmatch
  exact (decode_encodeReq hq hdst).trans (congrArg _ hmatch)

end DecodeEncode

/-- Settles O1: one case for each operation. A table entry unpacks to the entry it was packed from, a selector value is looked
up, and a packet's operands come back to the matcher, whose answer is the row's operation. -/
theorem decodeOfEncode : Obligations.DecodeOfEncode := by
  intro p i hp h
  cases i with
  | sample b => rfl
  | actNext _ | actReset | actOr _ | actPush _ | actEnd | actError => exact decode_encode_entry hp rfl h
  | rdiCtrl q => exact decode_encode_row (k := 0) hp h rfl rfl rfl
  | rdiMc q => exact decode_encode_row (k := 1) hp h rfl rfl rfl
  | rdiVib q => exact decode_encode_row (k := 2) hp h rfl rfl rfl
  | getcondCtrl q => exact decode_encode_row (k := 3) hp h rfl rfl rfl
  | getcondVib q => exact decode_encode_row (k := 4) hp h rfl rfl rfl
  | getmediaMc q => exact decode_encode_row (k := 5) hp h rfl rfl rfl
  | getmediaLcd q => exact decode_encode_row (k := 6) hp h rfl rfl rfl
  | getmediaVib q => exact decode_encode_row (k := 7) hp h rfl rfl rfl
  | bwriteMc q => exact decode_encode_row (k := 8) hp h rfl rfl rfl
  | bwriteLcd q => exact decode_encode_row (k := 9) hp h rfl rfl rfl
  | breadMc q => exact decode_encode_row (k := 10) hp h rfl rfl rfl
  | breadVib q => exact decode_encode_row (k := 11) hp h rfl rfl rfl
  | bwriteVib q => exact decode_encode_row (k := 12) hp h rfl rfl rfl
  | bcompleteMc q => exact decode_encode_row (k := 13) hp h rfl rfl rfl
  | setcondVib q => exact decode_encode_row (k := 14) hp h rfl rfl rfl
  | notOurs q d c => exact decode_encode_notOurs h
  | unrec q d c => exact decode_encode_unrec h
  | badPhase q d c => exact decode_encode_badPhase hp h
  | selNothing | selCtrlDevinfo | selCtrlStatus | selMcDevinfo | selMcMediainfo | selLcdMediainfo | selMcBlockdata
  | selMcAck | selVibDevinfo | selVibMediainfo | selVibCondition | selVibAstdata | selVibAck =>
    exact decode_encode_sel rfl h

/-- Settles O2: the two packets have the length their header says and their operands are matched; the other four codes are
looked up. -/
theorem writtenCodesDecode : Obligations.WrittenCodesDecode := by
  refine ⟨rfl, ?pushEntry, ?resetEntry, ?infoRequest, ?setCondition, rfl⟩
  case pushEntry => decide +kernel
  case resetEntry => decide +kernel
  case infoRequest => decide +kernel
  case setCondition => decide +kernel

end Sys2Proof.Machine

/-! SUPPORT. Sample bytes against single pairs (41_decoder R160, R169): a decoder step does what its four pairs do one after
another, so a run of decoder steps can be followed pair by pair, wherever the sample bytes begin and end. -/

namespace Sys2Proof.Machine

open Config (Edge Graph PairOrder)

/-! ### The actions of a walk -/

/-- RESET and OR of a walk. -/
def State.gather (s : State) (w : Walk) : State := (s.perform w.reset State.actReset).actOr w.cur

/-- RESET, OR and PUSH of a walk. -/
def State.store (s : State) (w : Walk) : State := (s.gather w).perform w.push fun t => t.actPush w.nxt

/-- The actions of a decoder step that a walk selects, up to END (41_decoder R161). -/
def State.act (s : State) (w : Walk) : State := (s.store w).perform w.endFlag State.actEnd

/-- The state, if the block has not halted. -/
def State.live? (s : State) : Option State := if s.fatal then none else some s

/-- What a walk makes of a state, if no action of it raises a fatal. -/
def State.walk? (s : State) (w : Walk) : Option State := ((s.actNext w.st).act w).live?

/-- What one pair makes of a state, if it raises no fatal. -/
def State.pair? (g : Graph) (s : State) (v : Pair) : Option State := s.walk? (micro g { st := s.dstate } v)

/-- What pairs one after another make of a state. -/
def State.pairs? (g : Graph) (s : State) (vs : List Pair) : Option State := vs.foldlM (State.pair? g) s

theorem State.live?_eq_some {s t : State} : s.live? = some t ↔ s.fatal = false ∧ s = t := by
  unfold State.live?
  cases s.fatal <;> simp

@[simp] theorem State.live?_of_live {s : State} (h : s.fatal = false) : s.live? = some s := by simp [State.live?, h]

@[simp] theorem State.live?_of_halted {s : State} (h : s.fatal = true) : s.live? = none := by simp [State.live?, h]

@[simp] theorem State.pairs?_nil (g : Graph) (s : State) : s.pairs? g [] = some s := rfl

theorem State.pairs?_cons (g : Graph) (s : State) (v : Pair) (vs : List Pair) :
    s.pairs? g (v :: vs) = (s.pair? g v).bind fun t => t.pairs? g vs := rfl

theorem State.pairs?_append (g : Graph) (s : State) (us vs : List Pair) :
    s.pairs? g (us ++ vs) = (s.pairs? g us).bind fun t => t.pairs? g vs := List.foldlM_append

theorem State.pairs?_append_some {g : Graph} {s t u : State} {us vs : List Pair} (h : s.pairs? g us = some t)
    (k : t.pairs? g vs = some u) : s.pairs? g (us ++ vs) = some u := by
  rw [State.pairs?_append, h, Option.bind_some, k]

/-! ### How the actions compose and commute -/

/-- What leaves the fatal flag alone and commutes with an action commutes with the action where it is selected. -/
theorem State.perform_comm {f h : State → State} {s : State} (hfatal : (h s).fatal = s.fatal) (hcomm : f (h s) = h (f s))
    (b : Bool) : (h s).perform b f = h (s.perform b f) := by
  cases b
  · rfl
  · simp only [State.perform_true, State.unlessFatal, hfatal]
    split
    · rfl
    · exact hcomm

/-- What commutes with each action of a walk commutes with the walk. -/
theorem State.act_comm {h : State → State} {s : State} {w : Walk} (hfatal : ∀ u, (h u).fatal = u.fatal)
    (hreset : (h s).actReset = h s.actReset) (hor : ∀ u, (h u).actOr w.cur = h (u.actOr w.cur))
    (hpush : (h (s.gather w)).actPush w.nxt = h ((s.gather w).actPush w.nxt))
    (hend : (h (s.store w)).actEnd = h (s.store w).actEnd) : (h s).act w = h (s.act w) := by
  have hgather : (h s).gather w = h (s.gather w) := by
    rw [State.gather, State.perform_comm (hfatal s) hreset, hor]
    rfl
  have hstore : (h s).store w = h (s.store w) := by
    rw [State.store, hgather]
    exact State.perform_comm (hfatal _) hpush w.push
  rw [State.act, hstore]
  exact State.perform_comm (hfatal _) hend w.endFlag

theorem State.actNext_actNext (s : State) (m n : Nat) : (s.actNext m).actNext n = s.actNext n := rfl

theorem State.actOr_actOr (s : State) (a b : Byte) : (s.actOr a).actOr b = s.actOr (a ||| b) := by
  simp only [State.actOr, BitVec.or_assoc]

@[simp] theorem State.actOr_zero (s : State) : s.actOr 0#8 = s := by
  simp only [State.actOr, BitVec.or_zero]

theorem State.actReset_actNext (s : State) (n : Nat) : (s.actNext n).actReset = s.actReset.actNext n := rfl

theorem State.actOr_actNext (s : State) (n : Nat) (a : Byte) : (s.actNext n).actOr a = (s.actOr a).actNext n := rfl

theorem State.actReset_actOr (s : State) (a : Byte) : (s.actOr a).actReset = s.actReset := rfl

theorem State.actReset_actReset (s : State) : s.actReset.actReset = s.actReset := rfl

theorem State.actPush_actNext (s : State) (n : Nat) (nxt : Byte) : (s.actNext n).actPush nxt = (s.actPush nxt).actNext n := by
  unfold State.actPush
  rw [apply_ite (State.actNext · n)]
  rfl

theorem State.actEnd_actNext (s : State) (n : Nat) : (s.actNext n).actEnd = s.actEnd.actNext n := by
  unfold State.actEnd
  rw [apply_ite (State.actNext · n), apply_ite (State.actNext · n)]
  rfl

theorem State.act_actNext (s : State) (n : Nat) (w : Walk) : (s.actNext n).act w = (s.act w).actNext n :=
  State.act_comm (h := (State.actNext · n)) (fun _ => rfl) rfl (fun _ => rfl) (State.actPush_actNext _ _ _)
    (State.actEnd_actNext _ _)

theorem State.actEnd_actOr (s : State) (m : Byte) : (s.actOr m).actEnd = s.actEnd.actOr m := by
  unfold State.actEnd
  rw [apply_ite (State.actOr · m), apply_ite (State.actOr · m)]
  rfl

theorem State.live?_actNext (s : State) (n : Nat) : (s.actNext n).live? = s.live?.map (State.actNext · n) := by
  unfold State.live?
  cases h : s.fatal <;> simp [h]

theorem State.live?_actOr (s : State) (m : Byte) : (s.actOr m).live? = s.live?.map (State.actOr · m) := by
  unfold State.live?
  cases h : s.fatal <;> simp [h]

/-- A bit after the push goes to the byte after the pushed one. -/
theorem State.live?_actPush_or (s : State) (nxt m : Byte) :
    (s.actPush (nxt ||| m)).live? = (s.actPush nxt).live?.map (State.actOr · m) := by
  rw [← State.live?_actOr]
  rcases s.actPush_cases nxt with ⟨hlap, h⟩ | ⟨hroom, h⟩ <;>
    rcases s.actPush_cases (nxt ||| m) with ⟨hlap', h'⟩ | ⟨hroom', h'⟩ <;> rw [h, h']
  · rfl
  · omega
  · omega
  · rfl

/-- A fatal suppresses the actions after it. -/
theorem State.live?_perform (s : State) (b : Bool) (f : State → State) :
    (s.perform b f).live? = s.live?.bind fun t => (t.perform b f).live? := by
  cases hf : s.fatal with
  | false => rw [State.live?_of_live hf]; rfl
  | true =>
    have hnone : (s.perform b f).live? = s.live? := by cases b <;> simp [hf]
    rw [hnone, State.live?_of_halted hf]
    rfl

/-! ### A walk of a halted and of a live block -/

section Live

variable {s : State}

theorem State.perform_of_halted (h : s.fatal = true) (b : Bool) (f : State → State) : s.perform b f = s := by
  cases b <;> simp [h]

theorem State.act_of_halted (h : s.fatal = true) (w : Walk) : (s.act w).fatal = true := by
  have hgather : (s.gather w).fatal = true := by rw [State.gather, State.perform_of_halted h]; exact h
  have hstore : (s.store w).fatal = true := by rw [State.store, State.perform_of_halted hgather]; exact hgather
  rw [State.act, State.perform_of_halted hstore]
  exact hstore

theorem State.gather_of_live (h : s.fatal = false) (w : Walk) :
    s.gather w = (if w.reset then s.actReset else s).actOr w.cur := by
  rw [State.gather]
  cases w.reset <;> simp [h]

theorem State.gather_fatal (h : s.fatal = false) (w : Walk) : (s.gather w).fatal = false := by
  rw [State.gather_of_live h]
  cases w.reset <;> exact h

/-- An edge that comes before Push and End gathers on; a Reset drops the bits gathered before it. -/
theorem State.gather_gather (h : s.fatal = false) {w r t : Walk} (hreset : t.reset = (w.reset || r.reset))
    (hcur : t.cur = (if r.reset then 0 else w.cur) ||| r.cur) : (s.gather w).gather r = s.gather t := by
  rw [State.gather_of_live (State.gather_fatal h w), State.gather_of_live h, State.gather_of_live h, hreset, hcur]
  cases r.reset with
  | true => cases w.reset <;> simp [State.actReset_actOr, State.actReset_actReset]
  | false => simp [State.actOr_actOr]

end Live

/-! ### A walk gone on by one pair -/

/-- The edge keeps the order of a decoder step: no Reset or Push after a Push or an End, no second End, and bits for the next byte
only behind a Push (40_table_builder R146). -/
def Walk.allows (w : Walk) (e : Edge) : Bool :=
  !((w.push || w.endFlag) && (e.reset || e.push)) && !(w.endFlag && e.endFlag) && (w.push || w.nxt == 0)

/-- The walk of one edge. -/
def edgeWalk (r : EdgeResult) : Walk where
  st := r.edge.next
  cur := r.edge.setmask
  push := r.edge.push
  reset := r.edge.reset
  endFlag := r.edge.endFlag
  error := r.error

section Micro

variable {g : Graph} {w : Walk} {v : Pair} {s : State}

theorem micro_start (g : Graph) (n : Nat) (v : Pair) : micro g { st := n } v = edgeWalk (edgeT g n v) := by
  cases h : (edgeT g n v).edge.reset <;> simp [micro, Walk.onReset, Walk.onBit, edgeWalk, h]

/-- Before a Push or an End the edge's bit joins the byte's, and its flags are the walk's. -/
theorem micro_of_open (hpush : w.push = false) (hend : w.endFlag = false) (hnxt : w.nxt = 0) :
    micro g w v =
      { edgeWalk (edgeT g w.st v) with
        cur := (if (edgeT g w.st v).edge.reset then 0 else w.cur) ||| (edgeT g w.st v).edge.setmask
        reset := w.reset || (edgeT g w.st v).edge.reset
        error := w.error || (edgeT g w.st v).error } := by
  cases h : (edgeT g w.st v).edge.reset <;> simp [micro, Walk.onReset, Walk.onBit, edgeWalk, h, hpush, hend, hnxt]

/-- An edge without Reset and Push adds its bit and its End. -/
theorem micro_of_plain (hreset : (edgeT g w.st v).edge.reset = false) (hpush : (edgeT g w.st v).edge.push = false) :
    micro g w v =
      { w.onBit (edgeT g w.st v).edge with
        st := (edgeT g w.st v).edge.next
        endFlag := w.endFlag || (edgeT g w.st v).edge.endFlag
        error := w.error || (edgeT g w.st v).error } := by
  cases h : w.push <;> simp [micro, Walk.onReset, Walk.onBit, hreset, hpush, h]

/-- A bit gathered by a walk is found in `acc`, behind a Push as before it. -/
theorem State.live?_store_onBit (s : State) (w : Walk) (e : Edge) :
    (s.store (w.onBit e)).live? = (s.store w).live?.map (State.actOr · e.setmask) := by
  cases hp : w.push with
  | false =>
    have hbit : w.onBit e = { w with cur := w.cur ||| e.setmask } := by simp [Walk.onBit, hp]
    rw [← State.live?_actOr, hbit, State.store, State.store, hp, State.perform_false, State.perform_false, State.gather,
      State.gather, State.actOr_actOr]
  | true =>
    have hbit : w.onBit e = { w with nxt := w.nxt ||| e.setmask } := by simp [Walk.onBit, hp]
    have hgather : s.gather (w.onBit e) = s.gather w := by rw [hbit]; rfl
    have hpush : (w.onBit e).push = true := by rw [hbit]; exact hp
    have hnxt : (w.onBit e).nxt = w.nxt ||| e.setmask := by rw [hbit]
    rw [State.store, State.store, hgather, hpush, hp, hnxt, State.live?_perform, State.live?_perform]
    cases hf : (s.gather w).fatal with
    | true => rw [State.live?_of_halted hf]; rfl
    | false =>
      rw [State.live?_of_live hf]
      simp [hf, State.live?_actPush_or]

/-- Behind a gathered bit an End, of the walk or of the edge, publishes as before it. -/
theorem State.live?_end_or (h : s.fatal = false) (m : Byte) {a b : Bool} (hab : (a && b) = false) :
    ((s.actOr m).perform (a || b) State.actEnd).live? =
      (s.perform a State.actEnd).live?.bind fun t => ((t.actOr m).perform b State.actEnd).live? := by
  cases a with
  | false => simp [h]
  | true =>
    obtain rfl : b = false := hab
    cases hend : s.actEnd.fatal with
    | false => simp [h, State.actEnd_actOr, hend]
    | true => simp [h, State.actEnd_actOr, hend]

/-- The actions of a walk gone on by one edge are those of the walk and then those of the edge, if no fatal comes first. -/
theorem State.live?_act_micro (hlive : s.fatal = false) (hallow : w.allows (edgeT g w.st v).edge = true) :
    (s.act (micro g w v)).live? = (s.act w).live?.bind fun t => (t.act (edgeWalk (edgeT g w.st v))).live? := by
  simp only [Walk.allows, Bool.and_eq_true, Bool.not_eq_true', Bool.or_eq_true, beq_iff_eq] at hallow
  obtain ⟨⟨horder, hends⟩, hnxt⟩ := hallow
  cases hacted : w.push || w.endFlag with
  | false =>
    obtain ⟨hpush, hend⟩ := Bool.or_eq_false_iff.mp hacted
    have hnxt : w.nxt = 0 := hnxt.resolve_left (by simp [hpush])
    have hact : s.act w = s.gather w := by simp [State.act, State.store, hpush, hend]
    rw [hact, State.live?_of_live (State.gather_fatal hlive w), Option.bind_some]
    have hgather : (s.gather w).gather (edgeWalk (edgeT g w.st v)) = s.gather (micro g w v) := by
      rw [micro_of_open hpush hend hnxt]
      exact State.gather_gather hlive rfl rfl
    rw [State.act, State.act, State.store, State.store, hgather, micro_of_open hpush hend hnxt]
  | true =>
    rw [hacted, Bool.true_and] at horder
    obtain ⟨hreset, hpush⟩ := Bool.or_eq_false_iff.mp horder
    have hstore : (s.store (micro g w v)).live? = (s.store w).live?.map (State.actOr · (edgeT g w.st v).edge.setmask) := by
      rw [micro_of_plain hreset hpush, ← State.live?_store_onBit]
      rfl
    have hend : (micro g w v).endFlag = (w.endFlag || (edgeT g w.st v).edge.endFlag) := by rw [micro_of_plain hreset hpush]
    have hedge : ∀ t : State, t.act (edgeWalk (edgeT g w.st v)) =
        (t.actOr (edgeT g w.st v).edge.setmask).perform (edgeT g w.st v).edge.endFlag State.actEnd := fun t => by
      simp [State.act, State.store, State.gather, edgeWalk, hreset, hpush]
    rw [State.act, State.live?_perform, hstore, hend, State.act, State.live?_perform]
    cases hf : (s.store w).fatal with
    | true => simp [hf]
    | false => simp [hf, hedge, State.live?_end_or hf _ hends]

/-- A walk that allows the edge of the next pair does what the walk and then the pair do. -/
theorem State.walk?_micro (hallow : w.allows (edgeT g w.st v).edge = true) :
    s.walk? (micro g w v) = (s.walk? w).bind fun t => t.pair? g v := by
  have hst : (micro g w v).st = (edgeT g w.st v).edge.next := rfl
  have hpair : ∀ u : State, (u.actNext w.st).pair? g v =
      (u.act (edgeWalk (edgeT g w.st v))).live?.map (State.actNext · (edgeT g w.st v).edge.next) := fun u => by
    rw [State.pair?, State.actNext_dstate, micro_start, State.walk?, State.actNext_actNext, State.act_actNext,
      State.live?_actNext]
    rfl
  rw [State.walk?, State.walk?, State.act_actNext, State.act_actNext, State.live?_actNext, State.live?_actNext, hst]
  cases hf : s.fatal with
  | true => simp [State.act_of_halted hf]
  | false =>
    rw [State.live?_act_micro hf hallow, Option.bind_map, Option.map_bind]
    exact congrArg _ (funext fun u => (hpair u).symm)

/-! ### A walk of several pairs -/

/-- Every edge of the walk that goes on from `w` is allowed (40_table_builder R146). -/
def allowsAll (g : Graph) : Walk → List Pair → Bool
  | _, [] => true
  | w, v :: vs => w.allows (edgeT g w.st v).edge && allowsAll g (micro g w v) vs

/-- A walk does what its pairs do one after another. -/
theorem State.walk?_foldl {vs : List Pair} (hallow : allowsAll g w vs = true) :
    s.walk? (vs.foldl (micro g) w) = (s.walk? w).bind fun t => t.pairs? g vs := by
  induction vs generalizing w with
  | nil => simp
  | cons v vs ih =>
    obtain ⟨hv, hvs⟩ := Bool.and_eq_true_iff.mp hallow
    rw [List.foldl_cons, ih hvs, State.walk?_micro hv, Option.bind_assoc]
    rfl

/-- The empty walk from the present DecodeState changes nothing. -/
theorem State.walk?_start (h : s.fatal = false) : s.walk? { st := s.dstate } = some s := by
  have hact : (s.actNext s.dstate).act { st := s.dstate } = s := by
    simp [State.act, State.store, State.gather, State.actNext]
  rw [State.walk?, hact, State.live?_of_live h]

/-- Pairs make of a live state what their walk from its DecodeState makes of it. -/
theorem State.pairs?_eq_walk? (h : s.fatal = false) {vs : List Pair} (hallow : allowsAll g { st := s.dstate } vs = true) :
    s.pairs? g vs = s.walk? (vs.foldl (micro g) { st := s.dstate }) := by
  rw [State.walk?_foldl hallow, State.walk?_start h, Option.bind_some]

end Micro

/-! ### What a walk leaves alone -/

/-- A property that RESET, OR, PUSH and END keep holds after the actions of a walk. -/
theorem State.act_keeps {P : State → Prop} {s : State} {w : Walk} (h : P s) (reset : ∀ u, P u → P u.actReset)
    (or : ∀ u m, P u → P (u.actOr m)) (push : ∀ u nxt, P u → P (u.actPush nxt)) (endPkt : ∀ u, P u → P u.actEnd) :
    P (s.act w) := by
  have perform : ∀ {f : State → State} {u : State} (b : Bool), (∀ u, P u → P (f u)) → P u → P (u.perform b f) := by
    intro f u b hf hu
    cases b with
    | false => exact hu
    | true =>
      rw [State.perform_true, State.unlessFatal]
      split
      · exact hu
      · exact hf u hu
  exact perform _ endPkt (perform _ (fun u => push u _) (or _ _ (perform _ reset h)))

theorem CaptureFrame.refl (s : State) : CaptureFrame s s := .of_eq rfl

theorem CaptureFrame.trans {s t u : State} (h : CaptureFrame s t) (k : CaptureFrame t u) : CaptureFrame s u where
  constants := h.constants.trans k.constants
  dispatch := h.dispatch.trans k.dispatch
  source :=
    { srcPairs := k.source.srcPairs.trans h.source.srcPairs
      srcOverrun := k.source.srcOverrun.trans h.source.srcOverrun
      script := k.source.script.trans h.source.script
      tick := k.source.tick.trans h.source.tick }

theorem State.actPush_captureFrame (s : State) (nxt : Byte) : CaptureFrame s (s.actPush nxt) := by
  rcases s.actPush_cases nxt with ⟨-, h⟩ | ⟨-, h⟩ <;> rw [h] <;> exact .of_eq rfl

theorem State.actEnd_captureFrame (s : State) : CaptureFrame s s.actEnd := by
  rcases s.actEnd_cases with ⟨-, h⟩ | ⟨-, -, h⟩ | ⟨-, -, h⟩ <;> rw [h] <;> exact .of_eq rfl

theorem State.act_captureFrame (s : State) (w : Walk) : CaptureFrame s (s.act w) :=
  State.act_keeps (P := CaptureFrame s) (.refl s) (fun _ h => h.trans (.of_eq rfl)) (fun _ _ h => h.trans (.of_eq rfl))
    (fun u nxt h => h.trans (u.actPush_captureFrame nxt)) (fun u h => h.trans u.actEnd_captureFrame)

theorem State.act_rdSeen (s : State) (w : Walk) : (s.act w).rdSeen = s.rdSeen :=
  State.act_keeps (P := fun u => u.rdSeen = s.rdSeen) rfl (fun _ h => h) (fun _ _ h => h)
    (fun u nxt h => (u.actPush_rdSeen nxt).trans h) (fun u h => u.actEnd_rdSeen.trans h)

/-- A walk that raises no fatal leaves the block live in the walk's last state, and what is not the capture agent's alone. -/
theorem State.walk?_some {s t : State} {w : Walk} (h : s.walk? w = some t) :
    t.fatal = false ∧ t.dstate = w.st ∧ t.rdSeen = s.rdSeen ∧ CaptureFrame s t := by
  rw [State.walk?, State.act_actNext, State.live?_eq_some] at h
  obtain ⟨hf, rfl⟩ := h
  exact ⟨hf, rfl, s.act_rdSeen w, (s.act_captureFrame w).trans (.of_eq rfl)⟩

theorem State.pairs?_some {g : Graph} {s t : State} {vs : List Pair} (h : s.pairs? g vs = some t) :
    t.rdSeen = s.rdSeen ∧ CaptureFrame s t := by
  induction vs generalizing s with
  | nil =>
    cases h
    exact ⟨rfl, .refl _⟩
  | cons v vs ih =>
    rw [State.pairs?_cons, Option.bind_eq_some_iff] at h
    obtain ⟨u, hu, hrest⟩ := h
    obtain ⟨-, -, hseen, hframe⟩ := State.walk?_some hu
    obtain ⟨hseen', hframe'⟩ := ih hrest
    exact ⟨hseen'.trans hseen, hframe.trans hframe'⟩

/-! ### The copy of the release cursor and the optional output

A decoder step begins with a draw of `rd_seen` and clears `err_pulse` (10_state R26, R36). While `rd_seen` and `rd_release` are
the same cursor, no draw moves it, and no action reads the output. -/

/-- The state with another number for the copy of the release cursor and another optional output. -/
def State.withCopy (s : State) (x : Nat) (err : Bool) : State := { s with rdSeen := x, errPulse := err }

theorem State.actPush_withCopy {s : State} {x : Nat} (hx : x % 2 ^ s.cfg.cursorW = s.rdSeen % 2 ^ s.cfg.cursorW) (err : Bool)
    (nxt : Byte) : (s.withCopy x err).actPush nxt = (s.actPush nxt).withCopy x err := by
  have hahead : cursorSub s.cfg.cursorW s.wr x = cursorSub s.cfg.cursorW s.wr s.rdSeen := by rw [cursorSub, hx, cursorSub]
  have hlap : (s.withCopy x err).ringLapped = s.ringLapped := congrArg (fun n => decide (s.cfg.ringSize ≤ n)) hahead
  rw [State.actPush, hlap, State.actPush, apply_ite (State.withCopy · x err)]
  rfl

theorem State.actEnd_withCopy (s : State) (x : Nat) (err : Bool) : (s.withCopy x err).actEnd = s.actEnd.withCopy x err := by
  unfold State.actEnd
  rw [apply_ite (State.withCopy · x err), apply_ite (State.withCopy · x err)]
  rfl

theorem State.gather_rdSeen (s : State) (w : Walk) : (s.gather w).rdSeen = s.rdSeen ∧ (s.gather w).cfg = s.cfg := by
  unfold State.gather State.perform State.unlessFatal
  split_ifs <;> exact ⟨rfl, rfl⟩

section Copy

variable {g : Graph} {s : State} {x : Nat}

theorem State.walk?_withCopy (hx : x % 2 ^ s.cfg.cursorW = s.rdSeen % 2 ^ s.cfg.cursorW) (err : Bool) (w : Walk) :
    (s.withCopy x err).walk? w = (s.walk? w).map (State.withCopy · x err) := by
  have hact : ((s.withCopy x err).actNext w.st).act w = ((s.actNext w.st).act w).withCopy x err := by
    obtain ⟨hseen, hcfg⟩ := (s.actNext w.st).gather_rdSeen w
    exact State.act_comm (h := (State.withCopy · x err)) (s := s.actNext w.st) (fun _ => rfl) rfl (fun _ => rfl)
      (State.actPush_withCopy (by rw [hseen, hcfg]; exact hx) err _) (State.actEnd_withCopy _ _ _)
  rw [State.walk?, State.walk?, hact]
  unfold State.live?
  rw [apply_ite (Option.map (State.withCopy · x err))]
  rfl

theorem State.pairs?_withCopy (hx : x % 2 ^ s.cfg.cursorW = s.rdSeen % 2 ^ s.cfg.cursorW) (err : Bool) (vs : List Pair) :
    (s.withCopy x err).pairs? g vs = (s.pairs? g vs).map (State.withCopy · x err) := by
  induction vs generalizing s with
  | nil => rfl
  | cons v vs ih =>
    have hpair : (s.withCopy x err).pair? g v = (s.pair? g v).map (State.withCopy · x err) := State.walk?_withCopy hx err _
    rw [State.pairs?_cons, State.pairs?_cons, hpair]
    cases ht : s.pair? g v with
    | none => rfl
    | some t =>
      obtain ⟨-, -, hseen, hframe⟩ := State.walk?_some ht
      exact ih (by rw [hseen, hframe.constants.cfg]; exact hx)

/-- Where the copy is exact a draw only names the same cursor (20_memory R74). -/
theorem State.drawAllowed_exact (hx : s.drawAllowed x = true)
    (hexact : s.rdSeen % 2 ^ s.cfg.cursorW = s.rdRelease % 2 ^ s.cfg.cursorW) :
    x % 2 ^ s.cfg.cursorW = s.rdSeen % 2 ^ s.cfg.cursorW := by
  obtain ⟨-, hahead, hbehind⟩ := State.drawAllowed_iff.mp hx
  have hzero : cursorSub s.cfg.cursorW s.rdRelease s.rdSeen = 0 :=
    cursorSub_eq_iff.mpr ⟨Nat.two_pow_pos _, hexact⟩
  have hsum := cursorSub_add (w := s.cfg.cursorW) (a := s.rdSeen) (b := x) (c := s.rdRelease) (by omega)
  have hx0 : cursorSub s.cfg.cursorW x s.rdSeen = 0 := by omega
  exact (cursorSub_eq_iff.mp hx0).2.symm

theorem State.beginDecoderStep_exact (hexact : s.rdSeen % 2 ^ s.cfg.cursorW = s.rdRelease % 2 ^ s.cfg.cursorW) :
    ∃ x, x % 2 ^ s.cfg.cursorW = s.rdSeen % 2 ^ s.cfg.cursorW ∧ s.beginDecoderStep = s.withCopy x false := by
  refine ⟨_, ?_, rfl⟩
  split
  · next hdraw => exact State.drawAllowed_exact hdraw hexact
  · rfl

end Copy

/-! ### A decoder step by the pairs of its sample byte -/

/-- With built tables the entry a decoder step looks up is the compiled walk of its byte, and the step performs the walk (R145,
41_decoder R160). -/
theorem execSample_of_built {s : State} {b : Byte} {w : Walk} (h : BuiltTables s) (hf : s.fatal = false)
    (hs : s.dstate < s.cfg.numStates) (hw : w = compile s.cfg.pairOrder s.cfg.graph s.dstate b) :
    execSample b s =
      .next (((((s.beginDecoderStep.actNext w.st).act w).perform w.error State.actError)).unlessFatal
        State.overrunCheck) := by
  subst hw
  have hentry := State.tableEntry_of_built h hs b
  have haccepted := h.accepted
  rw [builderRefuses_eq] at haccepted
  obtain ⟨hidle, hne, hedges, -, -, -, -⟩ := graphError_none.mp haccepted
  have hpair : (compile s.cfg.pairOrder s.cfg.graph s.dstate b).pair ∈ orTable s.cfg := by
    rw [orTable_eq]
    exact compile_pair_mem_dedup hs b
  have hlegal : entryLegal s.cfg (compileEntry s.cfg.pairOrder s.cfg.graph (orTable s.cfg) s.dstate b) = true := by
    refine entryLegal_iff.mpr ⟨compile_st_lt (hidle ▸ Nat.pos_of_ne_zero hne) hedges _ hs b,
      List.idxOf_lt_length_of_mem hpair, ?_⟩
    rw [flagsLegal_eq]
    exact flagsOccur_iff.mpr ⟨s.dstate, hs, b, rfl⟩
  have hrow : s.orRow (orTable s.cfg |>.idxOf (compile s.cfg.pairOrder s.cfg.graph s.dstate b).pair) =
      some (compile s.cfg.pairOrder s.cfg.graph s.dstate b).pair := by
    rw [State.orRow, h.ortab]
    exact List.getElem?_idxOf hpair
  exact execSample_next.mpr ⟨hf, _, _, hentry, hlegal, hrow, rfl⟩

/-- Every walk of `k` pairs from the state allows every edge that comes next. -/
def walksAllow (g : Graph) (s k : Nat) : Bool :=
  (walksFrom g s k).all fun w => allPairs.all fun v => w.allows (edgeT g w.st v).edge

theorem allowsAll_of_walksAllow {g : Graph} {s n : Nat} (h : ∀ k < n, walksAllow g s k = true) {vs : List Pair} {k : Nat}
    {w : Walk} (hw : w ∈ walksFrom g s k) (hk : k + vs.length ≤ n) : allowsAll g w vs = true := by
  induction vs generalizing k w with
  | nil => rfl
  | cons v vs ih =>
    rw [List.length_cons] at hk
    have hv := List.all_eq_true.mp (List.all_eq_true.mp (h k (by omega)) w hw) v (mem_allPairs v)
    have hnext : micro g w v ∈ walksFrom g s (k + 1) :=
      mem_addAll.mpr (.inr (List.mem_flatMap.mpr ⟨w, hw, List.mem_map.mpr ⟨v, mem_allPairs v, rfl⟩⟩))
    exact Bool.and_eq_true_iff.mpr ⟨hv, ih hnext (by omega)⟩

theorem walksAllow_refGraph : ∀ s < 36, ∀ k < 4, walksAllow refGraph s k = true := by decide +kernel

theorem allowsAll_samplePairs {s : Nat} (hs : s < 36) (o : PairOrder) (b : Byte) :
    allowsAll refGraph { st := s } (samplePairs o b) = true :=
  allowsAll_of_walksAllow (walksAllow_refGraph s hs) (k := 0) (List.mem_singleton.mpr rfl)
    (by rw [samplePairs_length])

/-- What the sample bytes of a frame need of a state: the reference tables, a live block, a sample source without a loss, and
an exact copy of the release cursor. -/
structure Receiving (s : State) : Prop where
  tables : ReferenceTables s
  dstate : s.dstate < 36
  live : s.fatal = false
  lossless : s.srcOverrun = false
  exact : s.rdSeen % 2 ^ s.cfg.cursorW = s.rdRelease % 2 ^ s.cfg.cursorW

theorem ReferenceTables.congr {s t : State} (h : ReferenceTables s) (hc : SameConstants s t) : ReferenceTables t where
  graph := by rw [hc.cfg]; exact h.graph
  built :=
    { accepted := by rw [hc.cfg]; exact h.built.accepted
      ortab := by rw [hc.cfg, hc.ortab]; exact h.built.ortab
      table := by rw [hc.table]; exact h.built.table }

theorem Receiving.walk {s t : State} {w : Walk} (hs : Receiving s) (hw : w.st < 36) (h : s.walk? w = some t) : Receiving t := by
  obtain ⟨hf, hd, hseen, hframe⟩ := State.walk?_some h
  exact
    { tables := hs.tables.congr hframe.constants
      dstate := hd ▸ hw
      live := hf
      lossless := hframe.source.srcOverrun.trans hs.lossless
      exact := by rw [hseen, hframe.dispatch.rdRelease, hframe.constants.cfg]; exact hs.exact }

/-- A decoder step does what its four pairs do, up to the copy of the release cursor and the optional output. -/
theorem Receiving.execSample {s t : State} {b : Byte} (hs : Receiving s)
    (h : s.pairs? refGraph (samplePairs s.cfg.pairOrder b) = some t) :
    Receiving t ∧
      ∃ x err, x % 2 ^ s.cfg.cursorW = s.rdSeen % 2 ^ s.cfg.cursorW ∧ execSample b s = .next (t.withCopy x err) := by
  have hstates : s.cfg.numStates = 36 := congrArg (fun g : Graph => g.cells.length) hs.tables.graph
  obtain ⟨w, hw⟩ : ∃ w, w = compile s.cfg.pairOrder s.cfg.graph s.dstate b := ⟨_, rfl⟩
  have hwalk : s.walk? w = some t := by
    rw [← h, State.pairs?_eq_walk? hs.live (allowsAll_samplePairs hs.dstate _ b), hw, hs.tables.graph]
    rfl
  have hst : w.st < 36 := by
    rw [hw, hs.tables.graph]
    exact compile_st_lt (g := refGraph) (by decide) (by decide) _ hs.dstate b
  obtain ⟨x, hx, hbegin⟩ := State.beginDecoderStep_exact hs.exact
  have hbegun : (((s.withCopy x false).actNext w.st).act w).live? = some (t.withCopy x false) := by
    have hcopy := State.walk?_withCopy hx false w
    rwa [hwalk] at hcopy
  obtain ⟨hf, hact⟩ := State.live?_eq_some.mp hbegun
  have ht := hs.walk hst hwalk
  refine ⟨ht, x, w.error, hx, ?_⟩
  rw [execSample_of_built hs.tables.built hs.live (hstates ▸ hs.dstate) hw, hbegin, hact]
  have herror : (t.withCopy x false).perform w.error State.actError = t.withCopy x w.error := by
    cases w.error with
    | false => rfl
    | true => exact State.unlessFatal_of_live (s := t.withCopy x false) ht.live _
  have hoverrun : (t.withCopy x w.error).overrunCheck = t.withCopy x w.error :=
    if_neg (by simp [State.withCopy, ht.lossless])
  rw [herror, State.unlessFatal_of_live (s := t.withCopy x w.error) ht.live, hoverrun]

theorem Receiving.withCopy {s : State} {x : Nat} (hs : Receiving s) (hx : x % 2 ^ s.cfg.cursorW = s.rdSeen % 2 ^ s.cfg.cursorW)
    (err : Bool) : Receiving (s.withCopy x err) :=
  { hs with
    tables := hs.tables.congr ⟨rfl, rfl, rfl, rfl⟩
    exact := hx.trans hs.exact }

/-- Sample bytes do what their pairs do one after another. -/
theorem Receiving.runSamples {bs : List Byte} {s t : State} (hs : Receiving s)
    (h : s.pairs? refGraph (bs.flatMap (samplePairs s.cfg.pairOrder)) = some t) :
    ∃ x err, runSamples bs s = .next (t.withCopy x err) := by
  induction bs generalizing s t with
  | nil =>
    cases h
    exact ⟨s.rdSeen, s.errPulse, rfl⟩
  | cons b bs ih =>
    rw [List.flatMap_cons, State.pairs?_append, Option.bind_eq_some_iff] at h
    obtain ⟨u, hu, hrest⟩ := h
    obtain ⟨hru, x, err, hx, hstep⟩ := hs.execSample hu
    obtain ⟨hseen, hframe⟩ := State.pairs?_some hu
    have hcfg : (u.withCopy x err).cfg = s.cfg := hframe.constants.cfg
    have hxu : x % 2 ^ u.cfg.cursorW = u.rdSeen % 2 ^ u.cfg.cursorW := by rw [hframe.constants.cfg, hseen]; exact hx
    have hcopied : (u.withCopy x err).pairs? refGraph (bs.flatMap (samplePairs (u.withCopy x err).cfg.pairOrder)) =
        some (t.withCopy x err) := by
      rw [hcfg, State.pairs?_withCopy hxu, hrest]
      rfl
    obtain ⟨y, err', hrun⟩ := ih (hru.withCopy hxu err) hcopied
    refine ⟨y, err', ?_⟩
    rw [Machine.runSamples, hstep, andThen_of_next, hrun]
    rfl

/-! ### Sample packing (30_encoding R92) -/

theorem samplePairs_packSample (o : PairOrder) (p0 p1 p2 p3 : Pair) :
    samplePairs o (packSample o p0 p1 p2 p3) = [p0, p1, p2, p3] := by
  cases o <;> revert p0 p1 p2 p3 <;> decide +kernel

/-- Packing loses nothing: the sample bytes hold the pairs in order, and fewer than four are left over. -/
theorem packPairs_spec (o : PairOrder) (vs : List Pair) :
    (packPairs o vs).1.flatMap (samplePairs o) ++ (packPairs o vs).2 = vs ∧ (packPairs o vs).2.length ≤ 3 := by
  fun_induction packPairs o vs with
  | case1 p0 p1 p2 p3 rest r ih =>
    rw [List.flatMap_cons, samplePairs_packSample, List.append_assoc, ih.1]
    exact ⟨rfl, ih.2⟩
  | case2 left h =>
    refine ⟨rfl, ?_⟩
    match left, h with
    | [], _ | [_], _ | [_, _], _ | [_, _, _], _ => simp
    | p0 :: p1 :: p2 :: p3 :: rest, h => exact absurd rfl (h p0 p1 p2 p3 rest)

end Sys2Proof.Machine

/-! SUPPORT. A frame on the wire (30_encoding R93): its parts as walks of the reference graph, the bytes it leaves in the ring,
and its publication. -/

namespace Sys2Proof.Machine

/-! ### The parts of a frame as walks (30_encoding R93, 40_table_builder R140) -/

/-- Outside a frame every pair but 10 is idle. -/
theorem micro_idle : ∀ v ∈ allPairs, v ≠ 0b10 → micro refGraph { st := 0 } v = { st := 0 } := by decide

theorem startPattern_walk :
    (startPattern .bHigh).foldl (micro refGraph) { st := 0 } = { st := 10, reset := true } ∧
      allowsAll refGraph { st := 0 } (startPattern .bHigh) = true := by decide

/-- The pairs of the end pattern up to its End edge. -/
def endEdges : List Pair := [0b11, 0b01, 0b00]

/-- The pairs of the end pattern after its End edge. -/
def endIdle : List Pair := [0b01, 0b00, 0b01, 0b11]

theorem endPattern_eq : endPattern .bHigh = endEdges ++ endIdle := by decide

theorem endEdges_walk :
    endEdges.foldl (micro refGraph) { st := 11 } = { st := 0, endFlag := true } ∧
      allowsAll refGraph { st := 11 } endEdges = true := by decide

/-- The state in which bit pair `j` of a byte begins: `FIRST` where line B is high, else `A0` to `A3`. -/
def groupStart (b : Bool) (j : Fin 4) : Nat := if b then 10 else 11 + 6 * j

/-- The data bits that bit pair `j` proves to be 1. -/
def groupBits (j : Fin 4) (hi lo : Bool) : Byte :=
  (if hi then 0x80 >>> (2 * j.val) else 0) ||| (if lo then 0x40 >>> (2 * j.val) else 0)

/-- The walk of bit pair `j`: its bits, and behind the last pair the Push. -/
def groupWalk (j : Fin 4) (hi lo : Bool) : Walk where
  st := groupStart false (j + 1)
  cur := groupBits j hi lo
  push := j == 3

theorem encGroup_walk : ∀ (j : Fin 4) (b hi lo : Bool), b = false ∨ j = 0 →
    (encGroup .bHigh b hi lo).foldl (micro refGraph) { st := groupStart b j } = groupWalk j hi lo ∧
      allowsAll refGraph { st := groupStart b j } (encGroup .bHigh b hi lo) = true := by decide +kernel

/-- The bits of the four bit pairs make the byte. -/
theorem groupBits_byte : ∀ d : Byte,
    groupBits 0 (d.getLsbD 7) (d.getLsbD 6) ||| groupBits 1 (d.getLsbD 5) (d.getLsbD 4) |||
      groupBits 2 (d.getLsbD 3) (d.getLsbD 2) ||| groupBits 3 (d.getLsbD 1) (d.getLsbD 0) = d := by decide +kernel

/-! ### What the parts of a frame do -/

section Parts

variable {s : State}

theorem State.pairs?_idle (hf : s.fatal = false) (hd : s.dstate = 0) {vs : List Pair} (hvs : ∀ v ∈ vs, v ≠ 0b10) :
    s.pairs? refGraph vs = some s := by
  induction vs with
  | nil => rfl
  | cons v vs ih =>
    have hpair : s.pair? refGraph v = some s := by
      rw [State.pair?, hd, micro_idle v (mem_allPairs v) (hvs v List.mem_cons_self), ← hd, State.walk?_start hf]
    rw [State.pairs?_cons, hpair, Option.bind_some, ih fun v hv => hvs v (List.mem_cons_of_mem _ hv)]

/-- The start pattern returns the write cursor to the packet start and clears the byte and the running XOR (R163). -/
theorem State.pairs?_start (hf : s.fatal = false) (hd : s.dstate = 0) :
    s.pairs? refGraph (startPattern .bHigh) = some (s.actReset.actNext 10) := by
  obtain ⟨hwalk, hallow⟩ := startPattern_walk
  rw [State.pairs?_eq_walk? hf (hd ▸ hallow), hd, hwalk, State.walk?]
  have hact : (s.actNext 10).act { st := 10, reset := true } = s.actReset.actNext 10 := by
    simp [State.act, State.store, State.gather, State.actReset_actNext, hf]
  exact (congrArg State.live? hact).trans (State.live?_of_live hf)

section Group

variable {b : Bool} {j : Fin 4}

theorem State.pairs?_encGroup (hf : s.fatal = false) (hb : b = false ∨ j = 0) (hd : s.dstate = groupStart b j) (hi lo : Bool) :
    s.pairs? refGraph (encGroup .bHigh b hi lo) = s.walk? (groupWalk j hi lo) := by
  obtain ⟨hwalk, hallow⟩ := encGroup_walk j b hi lo hb
  rw [State.pairs?_eq_walk? hf (hd ▸ hallow), hd, hwalk]

/-- A bit pair before the last only gathers its bits. -/
theorem State.pairs?_group (hf : s.fatal = false) (hb : b = false ∨ j = 0) (hd : s.dstate = groupStart b j) (hj : j ≠ 3)
    (hi lo : Bool) :
    s.pairs? refGraph (encGroup .bHigh b hi lo) =
      some ((s.actOr (groupBits j hi lo)).actNext (groupStart false (j + 1))) := by
  have hact : (s.actNext (groupStart false (j + 1))).act (groupWalk j hi lo) =
      (s.actOr (groupBits j hi lo)).actNext (groupStart false (j + 1)) := by
    simp [State.act, State.store, State.gather, groupWalk, beq_false_of_ne hj, State.actOr_actNext]
  rw [State.pairs?_encGroup hf hb hd]
  exact (congrArg State.live? hact).trans (State.live?_of_live hf)

/-- The last bit pair pushes the byte where the ring has room. -/
theorem State.pairs?_lastGroup (hf : s.fatal = false) (hd : s.dstate = groupStart false 3)
    (hroom : cursorSub s.cfg.cursorW s.wr s.rdSeen < s.cfg.ringSize) (hi lo : Bool) :
    s.pairs? refGraph (encGroup .bHigh false hi lo) = some (((s.actOr (groupBits 3 hi lo)).actNext 11).stored 0) := by
  have hact : (s.actNext 11).act (groupWalk 3 hi lo) = ((s.actOr (groupBits 3 hi lo)).actNext 11).actPush 0 := by
    simp [State.act, State.store, State.gather, groupWalk, State.actOr_actNext, hf]
  rw [State.pairs?_encGroup hf (.inl rfl) hd]
  refine (congrArg State.live? hact).trans ?_
  rcases ((s.actOr (groupBits 3 hi lo)).actNext 11).actPush_cases 0 with ⟨hlap, -⟩ | ⟨-, hpush⟩
  · exact absurd hroom (Nat.not_lt.mpr hlap)
  · rw [hpush]
    exact State.live?_of_live hf

end Group

/-- The pairs of a data byte store the byte, for either level of line B before it (30_encoding R93, R165). -/
theorem State.pairs?_byte (hf : s.fatal = false) {b : Bool} (hd : s.dstate = if b then 10 else 11)
    (hroom : cursorSub s.cfg.cursorW s.wr s.rdSeen < s.cfg.ringSize) (d : Byte) :
    s.pairs? refGraph (encByte .bHigh b d) = some (((s.actOr d).actNext 11).stored 0) := by
  have hbytes : s.pairs? refGraph (encByte .bHigh b d) = some (State.stored _ 0) :=
    State.pairs?_append_some
      (State.pairs?_append_some
        (State.pairs?_append_some (State.pairs?_group (j := 0) hf (.inr rfl) hd (by decide) _ _)
          (State.pairs?_group (j := 1) (by exact hf) (.inl rfl) rfl (by decide) _ _))
        (State.pairs?_group (j := 2) (by exact hf) (.inl rfl) rfl (by decide) _ _))
      (State.pairs?_lastGroup (by exact hf) (by rfl) (by exact hroom) _ _)
  rw [hbytes]
  have hacc := congrArg (s.acc ||| ·) (groupBits_byte d)
  simp only [← BitVec.or_assoc] at hacc
  simp only [State.actOr, State.actNext, hacc]

/-- The End edge publishes a packet whose exclusive OR is zero, and drops any other (R166). -/
theorem State.pairs?_end (hf : s.fatal = false) (hd : s.dstate = 11)
    (hroom : s.rxor = 0 → s.handoff.length ≠ s.cfg.handoffDepth) :
    s.pairs? refGraph endEdges = some ((if s.rxor = 0 then s.published else s).actNext 0) := by
  obtain ⟨hwalk, hallow⟩ := endEdges_walk
  rw [State.pairs?_eq_walk? hf (hd ▸ hallow), hd, hwalk, State.walk?]
  have hact : (s.actNext 0).act { st := 0, endFlag := true } = s.actEnd.actNext 0 := by
    rw [State.act_actNext]
    simp [State.act, State.store, State.gather, hf]
  rw [hact, State.live?_actNext]
  rcases s.actEnd_cases with ⟨hx, h⟩ | ⟨hx, hfull, -⟩ | ⟨hx, -, h⟩
  · rw [h, if_neg hx, State.live?_of_live hf]
    rfl
  · exact absurd hfull (hroom hx)
  · rw [if_pos hx, h]
    exact congrArg (Option.map (State.actNext · 0)) (State.live?_of_live (s := s.published) hf)

end Parts

/-! ### The bytes received since the start pattern -/

/-- `done` are the bytes received since the start pattern of a frame that found the block in state `s`; `u` is the state
now. -/
structure Received (s : State) (done : List Byte) (u : State) : Prop where
  cfg : u.cfg = s.cfg
  live : u.fatal = false
  dstate : u.dstate = if done.isEmpty then 10 else 11
  acc : u.acc = 0
  rxor : u.rxor = xorBytes done
  wr : u.wr = if done.isEmpty then s.pstart else cursorAdd s.cfg.cursorW s.pstart done.length
  pstart : u.pstart = s.pstart
  handoff : u.handoff = s.handoff
  rdSeen : u.rdSeen = s.rdSeen
  form : Memory.wf u.ring
  inside : ∀ (i : Nat) (d : Byte), done[i]? = some d →
    Memory.read u.ring (s.ringIndex (cursorAdd s.cfg.cursorW s.pstart i)) = d
  outside : ∀ a : Nat, (∀ i : Nat, i < done.length → a ≠ s.ringIndex (cursorAdd s.cfg.cursorW s.pstart i)) →
    Memory.read u.ring a = Memory.read s.ring a

section Frame

variable {s u : State} {done : List Byte}

/-- Cursors of a frame that fits the ring have different ring indices (20_memory R74). -/
theorem ringIndex_frame_inj (hbits : s.cfg.ringBits ≤ s.cfg.cursorW) {c i j : Nat} (hi : i < s.cfg.ringSize)
    (hj : j < s.cfg.ringSize)
    (h : s.ringIndex (cursorAdd s.cfg.cursorW c i) = s.ringIndex (cursorAdd s.cfg.cursorW c j)) : i = j := by
  have hsize : s.cfg.ringSize ≤ 2 ^ s.cfg.cursorW := Nat.pow_le_pow_right (by decide) hbits
  have hdist := ringIndex_inj (o := c) hbits (by rwa [cursorSub_cursorAdd _ (by omega)])
    (by rwa [cursorSub_cursorAdd _ (by omega)]) h
  rwa [cursorSub_cursorAdd _ (by omega), cursorSub_cursorAdd _ (by omega)] at hdist

theorem Received.start (hf : s.fatal = false) (hring : Memory.wf s.ring) : Received s [] (s.actReset.actNext 10) where
  cfg := rfl
  live := hf
  dstate := rfl
  acc := rfl
  rxor := rfl
  wr := rfl
  pstart := rfl
  handoff := rfl
  rdSeen := rfl
  form := hring
  inside := nofun
  outside := fun _ _ => rfl

/-- Where the write cursor stands, and how far it is ahead of the copy of the release cursor. -/
theorem Received.wr_index (h : Received s done u) (hbits : s.cfg.ringBits ≤ s.cfg.cursorW) :
    u.ringIndex u.wr = s.ringIndex (cursorAdd s.cfg.cursorW s.pstart done.length) := by
  rw [State.ringIndex, State.ringIndex, h.cfg, h.wr]
  split
  · next hnil =>
    obtain rfl := List.isEmpty_iff.mp hnil
    exact (cursorAdd_mod_ring hbits s.pstart 0).symm
  · rfl

theorem Received.wr_ahead (h : Received s done u)
    (hfit : cursorSub s.cfg.cursorW s.pstart s.rdSeen + done.length < 2 ^ s.cfg.cursorW) :
    cursorSub u.cfg.cursorW u.wr u.rdSeen = cursorSub s.cfg.cursorW s.pstart s.rdSeen + done.length := by
  have hlen : cursorSub s.cfg.cursorW (cursorAdd s.cfg.cursorW s.pstart done.length) s.pstart = done.length :=
    cursorSub_cursorAdd _ (by omega)
  rw [h.cfg, h.rdSeen, h.wr]
  split
  · next hnil => simp [List.isEmpty_iff.mp hnil]
  · rw [cursorSub_add (b := s.pstart) (by rwa [hlen]), hlen]

theorem Received.wr_next (h : Received s done u) :
    cursorAdd u.cfg.cursorW u.wr 1 = cursorAdd s.cfg.cursorW s.pstart (done.length + 1) := by
  rw [h.cfg, h.wr]
  split
  · next hnil => rw [List.isEmpty_iff.mp hnil]; rfl
  · exact cursorAdd_cursorAdd _ _ _ _

/-- One more byte of a frame that fits the ring. -/
theorem Received.byte (h : Received s done u) (hbits : s.cfg.ringBits ≤ s.cfg.cursorW) (d : Byte)
    (hroom : cursorSub s.cfg.cursorW s.pstart s.rdSeen + (done.length + 1) ≤ s.cfg.ringSize) :
    ∃ t, u.pairs? refGraph (encByte .bHigh done.isEmpty d) = some t ∧ Received s (done ++ [d]) t := by
  have hsize : s.cfg.ringSize ≤ 2 ^ s.cfg.cursorW := Nat.pow_le_pow_right (by decide) hbits
  have hlap : cursorSub u.cfg.cursorW u.wr u.rdSeen < u.cfg.ringSize := by
    rw [h.wr_ahead (by omega), h.cfg]
    omega
  have hring : (((u.actOr d).actNext 11).stored 0).ring = Memory.write u.ring (u.ringIndex u.wr) (u.acc ||| d) := rfl
  have hacc : u.acc ||| d = d := by rw [h.acc]; exact BitVec.zero_or
  rw [hacc, h.wr_index hbits] at hring
  refine ⟨_, State.pairs?_byte h.live h.dstate hlap d, ?_⟩
  exact
    { cfg := h.cfg
      live := h.live
      dstate := by simp [State.stored]
      acc := rfl
      rxor := by
        have hx : (((u.actOr d).actNext 11).stored 0).rxor = u.rxor ^^^ (u.acc ||| d) := rfl
        rw [hx, hacc, h.rxor, Laws.EncodeFits.xorBytes_append]
        simp [xorBytes]
      wr := by
        have hwr : (((u.actOr d).actNext 11).stored 0).wr = cursorAdd u.cfg.cursorW u.wr 1 := rfl
        rw [hwr, h.wr_next]
        simp
      pstart := h.pstart
      handoff := h.handoff
      rdSeen := h.rdSeen
      form := by
        rw [hring]
        exact Memory.write_wf h.form _ _
      inside := by
        intro i e hi
        rw [hring]
        rcases Nat.lt_trichotomy i done.length with hlt | rfl | hgt
        · rw [List.getElem?_append_left hlt] at hi
          have hne : s.ringIndex (cursorAdd s.cfg.cursorW s.pstart i) ≠
              s.ringIndex (cursorAdd s.cfg.cursorW s.pstart done.length) := fun heq =>
            hlt.ne (ringIndex_frame_inj hbits (by omega) (by omega) heq)
          rw [Memory.read_write_other _ _ hne]
          exact h.inside i e hi
        · obtain rfl : d = e := by simpa using hi
          exact Memory.read_write_same h.form _ _
        · rw [List.getElem?_eq_none (by simpa using hgt)] at hi
          cases hi
      outside := by
        intro a ha
        have hat : a ≠ s.ringIndex (cursorAdd s.cfg.cursorW s.pstart done.length) := ha _ (by simp)
        rw [hring, Memory.read_write_other _ _ hat]
        exact h.outside a fun i hi => ha i (by simp; omega) }

/-- The rest of a frame that fits the ring. -/
theorem Received.bytes {rest : List Byte} (h : Received s done u) (hbits : s.cfg.ringBits ≤ s.cfg.cursorW)
    (hroom : cursorSub s.cfg.cursorW s.pstart s.rdSeen + (done.length + rest.length) ≤ s.cfg.ringSize) :
    ∃ t, u.pairs? refGraph (encBytes .bHigh done.isEmpty rest) = some t ∧ Received s (done ++ rest) t := by
  induction rest generalizing done u with
  | nil => exact ⟨u, rfl, by rwa [List.append_nil]⟩
  | cons d rest ih =>
    rw [List.length_cons] at hroom
    obtain ⟨v, hv, hreceived⟩ := h.byte hbits d (by omega)
    obtain ⟨t, ht, hall⟩ := ih hreceived (by rw [List.length_append, List.length_singleton]; omega)
    have hempty : (done ++ [d]).isEmpty = false := by simp
    rw [hempty] at ht
    exact ⟨t, State.pairs?_append_some hv ht, by rwa [List.append_assoc] at hall⟩

/-- The bytes read back from the ring, in whatever state holds it. -/
theorem Received.ringRun {t : State} (h : Received s done u) (hring : t.ring = u.ring) (hcfg : t.cfg = s.cfg) :
    t.ringRun s.pstart done.length = done := by
  apply List.ext_getElem (State.length_ringRun _ _ _)
  intro i _ hi
  have hread := h.inside i done[i] (List.getElem?_eq_getElem hi)
  simp only [State.ringRun, List.getElem_map, List.getElem_range, State.ringRead, State.ringIndex, hring, hcfg]
  exact hread

/-- The end of a frame: `IDLE`, and the packet published or dropped (R166). -/
def State.frameEnd (u : State) : State := (if u.rxor = 0 then u.published else u).actNext 0

/-- The pairs of a frame behind idle pairs, up to its End edge. -/
def framePairs (lead : List Pair) (data : List Byte) : List Pair :=
  lead ++ (startPattern .bHigh ++ (encBytes .bHigh true data ++ endEdges))

/-- What the pairs of a whole frame do, wherever it begins. -/
theorem State.pairs?_frame {data : List Byte} {lead : List Pair} (hne : data ≠ []) (hlead : ∀ p ∈ lead, p ≠ 0b10)
    (hf : s.fatal = false) (hd : s.dstate = 0) (hring : Memory.wf s.ring) (hbits : s.cfg.ringBits ≤ s.cfg.cursorW)
    (hfit : cursorSub s.cfg.cursorW s.pstart s.rdSeen + data.length ≤ s.cfg.ringSize)
    (hqueue : xorBytes data = 0 → s.handoff.length < s.cfg.handoffDepth) :
    ∃ u, s.pairs? refGraph (framePairs lead data) = some u.frameEnd ∧ Received s data u := by
  obtain ⟨u, hbytes, hu⟩ := (Received.start hf hring).bytes hbits (rest := data) (by simpa using hfit)
  have hdstate : u.dstate = 11 := by
    rw [hu.dstate, if_neg]
    simpa using hne
  have hend : u.pairs? refGraph endEdges = some u.frameEnd :=
    State.pairs?_end hu.live hdstate fun hx => by
      rw [hu.handoff, hu.cfg]
      exact (hqueue (hu.rxor ▸ hx)).ne
  exact ⟨u, State.pairs?_append_some (State.pairs?_idle hf hd hlead)
    (State.pairs?_append_some (State.pairs?_start hf hd) (State.pairs?_append_some hbytes hend)), hu⟩

/-- The pairs that whole sample bytes take of a frame reach past its End edge: at most three are left over, and four idle pairs
follow the edge (R173). -/
theorem sampled_frame {lead used left : List Pair} {data : List Byte}
    (h : used ++ left = lead ++ enc .bHigh data) (hleft : left.length ≤ 3) :
    ∃ rest, used = framePairs lead data ++ rest ∧ ∀ v ∈ rest, v ≠ 0b10 := by
  have hframe : lead ++ enc .bHigh data = framePairs lead data ++ endIdle := by
    simp only [enc, endPattern_eq, framePairs, List.append_assoc]
  rw [hframe, List.append_eq_append_iff] at h
  rcases h with ⟨more, -, hmore⟩ | ⟨rest, hused, hrest⟩
  · have hlen := congrArg List.length hmore
    simp only [List.length_append, endIdle, List.length_cons, List.length_nil] at hlen
    omega
  · have hidle : ∀ v ∈ endIdle, v ≠ 0b10 := by decide
    exact ⟨rest, hused, fun v hv => hidle v (hrest ▸ List.mem_append_left _ hv)⟩

theorem State.frameEnd_of_good (h : u.rxor = 0) : u.frameEnd = u.published.actNext 0 := by
  rw [State.frameEnd, if_pos h]

theorem State.frameEnd_of_bad (h : u.rxor ≠ 0) : u.frameEnd = u.actNext 0 := by
  rw [State.frameEnd, if_neg h]

/-- The end of a frame leaves what was received. -/
theorem State.frameEnd_keeps (u : State) :
    u.frameEnd.fatal = u.fatal ∧ u.frameEnd.rxor = u.rxor ∧ u.frameEnd.wr = u.wr ∧ u.frameEnd.ring = u.ring ∧
      u.frameEnd.cfg = u.cfg := by
  unfold State.frameEnd
  split <;> exact ⟨rfl, rfl, rfl, rfl, rfl⟩

theorem Received.handoff_frameEnd (h : Received s done u) :
    (xorBytes done = 0 → u.frameEnd.handoff = s.handoff ++ [u.wr] ∧
      u.frameEnd.pstart = alignUp s.cfg.cursorW u.wr s.cfg.startAlign) ∧
    (xorBytes done ≠ 0 → u.frameEnd.handoff = s.handoff ∧ u.frameEnd.pstart = s.pstart) := by
  rw [← h.rxor, ← h.handoff, ← h.pstart, ← h.cfg]
  constructor
  · intro hx
    rw [State.frameEnd_of_good hx]
    exact ⟨rfl, rfl⟩
  · intro hx
    rw [State.frameEnd_of_bad hx]
    exact ⟨rfl, rfl⟩

end Frame

/-- Settles O16: the frame's pairs are followed one by one (`State.pairs?_frame`), and the decoder steps on the sample bytes they
are packed into do the same (`Receiving.runSamples`). -/
theorem framedPacketIsPublished : Obligations.FramedPacketIsPublished := by
  intro data lead s hne _ hlead hparams htables hd hf hlossless hexact hqueue hring hfit
  obtain ⟨-, hbits, -⟩ := paramsLegal_iff.mp hparams
  obtain ⟨u, hframe, hu⟩ := State.pairs?_frame hne hlead hf hd hring hbits hfit hqueue
  obtain ⟨hfatal, hrxor, hwr, hkeep, hcfg⟩ := u.frameEnd_keeps
  have hlive : u.frameEnd.fatal = false := hfatal.trans hu.live
  obtain ⟨hpacked, hleft⟩ := packPairs_spec s.cfg.pairOrder (lead ++ enc .bHigh data)
  obtain ⟨rest, hused, hidle⟩ := sampled_frame hpacked hleft
  have hpairs : s.pairs? refGraph ((packPairs s.cfg.pairOrder (lead ++ enc .bHigh data)).1.flatMap
      (samplePairs s.cfg.pairOrder)) = some u.frameEnd := by
    rw [hused]
    exact State.pairs?_append_some hframe (State.pairs?_idle hlive rfl hidle)
  have hreceiving : Receiving s :=
    { tables := htables
      dstate := by omega
      live := hf
      lossless := hlossless
      exact := by rw [hexact] }
  obtain ⟨x, err, hrun⟩ := hreceiving.runSamples hpairs
  obtain ⟨hconstants, hdispatch, hsource⟩ := (State.pairs?_some hpairs).2
  have hend : u.wr = cursorAdd s.cfg.cursorW s.pstart data.length := by
    rw [hu.wr, if_neg]
    simpa using hne
  obtain ⟨hgood, hbad⟩ := hu.handoff_frameEnd
  rw [hend] at hgood
  refine ⟨_, hrun, hlive, rfl, hrxor.trans hu.rxor, hwr.trans hend, hgood, hbad, ?run, fun a ha => ?other,
    { hconstants with }, { hdispatch with }, { hsource with }⟩
  case run => exact hu.ringRun hkeep (hcfg.trans hu.cfg)
  case other => exact (congrArg (Memory.read · a) hkeep).trans (hu.outside a ha)

end Sys2Proof.Machine

/-! SUPPORT. What `TB.DEDUP` lists for any graph: the preset row first, no pair twice, and the pairs of the walks
(40_table_builder R147). -/

namespace Sys2Proof.Machine

open Config (Graph PairOrder)

/-! ### The order and the repetitions of a grown list -/

section Grown

variable {α : Type} [DecidableEq α]

theorem prefix_addNew (tab : List α) (x : α) : tab <+: addNew tab x := by
  by_cases hx : x ∈ tab
  · rw [addNew_of_mem hx]
  · rw [addNew_of_notMem hx]
    exact List.prefix_append _ _

theorem prefix_addAll (tab xs : List α) : tab <+: addAll tab xs := by
  induction xs generalizing tab with
  | nil => exact List.prefix_refl tab
  | cons x xs ih => exact (prefix_addNew tab x).trans (ih _)

theorem nodup_addNew {tab : List α} (h : tab.Nodup) (x : α) : (addNew tab x).Nodup := by
  by_cases hx : x ∈ tab
  · rwa [addNew_of_mem hx]
  · rw [addNew_of_notMem hx]
    exact List.concat_eq_append ▸ h.concat hx

theorem nodup_addAll {tab : List α} (h : tab.Nodup) (xs : List α) : (addAll tab xs).Nodup := by
  induction xs generalizing tab with
  | nil => exact h
  | cons x xs ih => exact ih (nodup_addNew h x)

end Grown

/-- A row of the OR table is the preset row or the pair of a walk. -/
theorem mem_dedup {o : PairOrder} {g : Graph} {p : Byte × Byte} :
    p ∈ dedup o g ↔
      p = (0, 0) ∨ ∃ s b : Nat, s < g.cells.length ∧ b < 256 ∧ p = (compile o g s (BitVec.ofNat 8 b)).pair := by
  rw [dedup_eq_addAll, mem_addAll, List.mem_singleton, List.mem_flatMap]
  refine or_congr_right ⟨?_, ?_⟩
  · rintro ⟨s, hs, hp⟩
    obtain ⟨b, hb, rfl⟩ := List.mem_map.mp hp
    exact ⟨s, b, List.mem_range.mp hs, List.mem_range.mp hb, rfl⟩
  · rintro ⟨s, b, hs, hb, rfl⟩
    exact ⟨s, List.mem_range.mpr hs, List.mem_map.mpr ⟨b, List.mem_range.mpr hb, rfl⟩⟩

/-- Settles O20: `TB.DEDUP` grows the preset row by the pairs it lacks (`dedup_eq_addAll`). -/
theorem orTableCoversEveryWalk : Obligations.OrTableCoversEveryWalk := by
  intro o g
  refine ⟨?preset, ?once, fun s b hs _ => compile_pair_mem_dedup hs _, fun p => mem_dedup.mp⟩
  case preset =>
    rw [dedup_eq_addAll]
    obtain ⟨rows, hrows⟩ := prefix_addAll [((0 : Byte), (0 : Byte))] _
    rw [← hrows]
    rfl
  case once =>
    rw [dedup_eq_addAll]
    exact nodup_addAll (List.nodup_singleton _) _

end Sys2Proof.Machine

/-! SUPPORT. Pairs that take only edges without an action: they move the decoder and leave nothing else behind, whatever the
copy of the release cursor (41_decoder R171). A frame whose start pattern is damaged is such a run of pairs (30_encoding R93,
40_table_builder R150). -/

namespace Sys2Proof.Machine

open Config (Edge Graph)

/-! ### Inert pairs -/

/-- The edge selects no action of the decoder: no bit, no Push, no Reset, no End (30_encoding R97). -/
def inertEdge (e : Edge) : Bool := e.setmask == 0 && !e.push && !e.reset && !e.endFlag

/-- The state a pair leads to, if its edge is inert, as the error edge is (40_table_builder R142). -/
def inertPair (g : Graph) (n : Nat) (v : Pair) : Option Nat :=
  if inertEdge (edgeT g n v).edge then some (edgeT g n v).edge.next else none

/-- The state pairs lead to, if all their edges are inert. -/
def inertRun (g : Graph) (n : Nat) (vs : List Pair) : Option Nat := vs.foldlM (inertPair g) n

section Inert

variable {g : Graph} {l m n : Nat} {v : Pair} {us vs : List Pair}

theorem inertRun_cons_eq_some :
    inertRun g l (v :: vs) = some n ↔ ∃ m, inertPair g l v = some m ∧ inertRun g m vs = some n :=
  Option.bind_eq_some_iff

theorem inertRun_append_eq_some :
    inertRun g l (us ++ vs) = some n ↔ ∃ m, inertRun g l us = some m ∧ inertRun g m vs = some n := by
  rw [inertRun, List.foldlM_append]
  exact Option.bind_eq_some_iff

theorem inertRun_append (h : inertRun g l us = some m) (k : inertRun g m vs = some n) : inertRun g l (us ++ vs) = some n :=
  inertRun_append_eq_some.mpr ⟨m, h, k⟩

/-- An inert pair moves a walk that has selected nothing, and can only add the error flag. -/
theorem micro_of_inert (h : inertPair g n v = some m) (err : Bool) :
    ∃ err', micro g { st := n, error := err } v = { st := m, error := err' } := by
  obtain ⟨hinert, hnext⟩ := Option.ite_none_right_eq_some.mp h
  obtain rfl := Option.some.inj hnext
  simp only [inertEdge, Bool.and_eq_true, Bool.not_eq_true', beq_iff_eq] at hinert
  obtain ⟨⟨⟨hmask, hpush⟩, hreset⟩, hend⟩ := hinert
  exact ⟨err || (edgeT g n v).error, by rw [micro_of_open rfl rfl rfl]; simp [edgeWalk, hmask, hpush, hreset, hend]⟩

/-- The walk of inert pairs selects no action but Error. -/
theorem foldl_micro_of_inert (h : inertRun g n vs = some m) (err : Bool) :
    ∃ err', vs.foldl (micro g) { st := n, error := err } = { st := m, error := err' } := by
  induction vs generalizing n err with
  | nil =>
    obtain rfl : n = m := Option.some.inj h
    exact ⟨err, rfl⟩
  | cons v vs ih =>
    obtain ⟨k, hv, hvs⟩ := inertRun_cons_eq_some.mp h
    obtain ⟨err', hmicro⟩ := micro_of_inert hv err
    rw [List.foldl_cons, hmicro]
    exact ih hvs err'

end Inert

/-! ### Sample bytes of inert pairs -/

section InertSamples

variable {s : State} {n : Nat}

/-- A decoder step on inert pairs changes the decoder's state, the copy of the release cursor and the optional output only. -/
theorem execSample_of_inert {b : Byte} (htables : ReferenceTables s) (hd : s.dstate < 36) (hf : s.fatal = false)
    (hsrc : s.srcOverrun = false) (h : inertRun refGraph s.dstate (samplePairs s.cfg.pairOrder b) = some n) :
    n < 36 ∧ ∃ x err, execSample b s = .next ((s.actNext n).withCopy x err) := by
  obtain ⟨err, hwalk⟩ := foldl_micro_of_inert h false
  have hstates : s.cfg.numStates = 36 := congrArg (fun g : Graph => g.cells.length) htables.graph
  have hn : (compile s.cfg.pairOrder refGraph s.dstate b).st < 36 :=
    compile_st_lt (g := refGraph) (by decide) (by decide) _ hd b
  have hw : ({ st := n, error := err } : Walk) = compile s.cfg.pairOrder s.cfg.graph s.dstate b := by
    rw [htables.graph]
    exact hwalk.symm
  refine ⟨by rwa [← htables.graph, ← hw] at hn, s.beginDecoderStep.rdSeen, err, ?_⟩
  rw [execSample_of_built htables.built hf (hstates ▸ hd) hw]
  have hact : (s.beginDecoderStep.actNext n).act { st := n, error := err } =
      (s.actNext n).withCopy s.beginDecoderStep.rdSeen false := State.actOr_zero _
  have herror : ((s.actNext n).withCopy s.beginDecoderStep.rdSeen false).perform err State.actError =
      (s.actNext n).withCopy s.beginDecoderStep.rdSeen err := by
    cases err with
    | false => rfl
    | true => exact State.unlessFatal_of_live (by exact hf) _
  rw [hact, herror, State.unlessFatal_of_live (by exact hf), State.overrunCheck, if_neg]
  simp [State.withCopy, hsrc]

/-- Sample bytes of inert pairs leave no trace but the state they lead to. -/
theorem runSamples_of_inert {bs : List Byte} (htables : ReferenceTables s) (hd : s.dstate < 36) (hf : s.fatal = false)
    (hsrc : s.srcOverrun = false)
    (h : inertRun refGraph s.dstate (bs.flatMap (samplePairs s.cfg.pairOrder)) = some n) :
    ∃ x err, runSamples bs s = .next ((s.actNext n).withCopy x err) := by
  induction bs generalizing s with
  | nil =>
    obtain rfl : s.dstate = n := Option.some.inj h
    exact ⟨s.rdSeen, s.errPulse, rfl⟩
  | cons b bs ih =>
    obtain ⟨m, hb, hbs⟩ := inertRun_append_eq_some.mp h
    obtain ⟨hm, x, err, hstep⟩ := execSample_of_inert htables hd hf hsrc hb
    obtain ⟨y, err', hrun⟩ := ih (s := (s.actNext m).withCopy x err) (htables.congr ⟨rfl, rfl, rfl, rfl⟩) hm hf hsrc hbs
    refine ⟨y, err', ?_⟩
    rw [runSamples, hstep, andThen_of_next, hrun]
    rfl

end InertSamples

/-! ### A damaged start pattern -/

/-- Outside a frame every pair but 10 is inert and leads back to `IDLE`. -/
theorem inertPair_idle : ∀ v ∈ allPairs, v ≠ 0b10 → inertPair refGraph 0 v = some 0 := by decide

theorem inertRun_idle {vs : List Pair} (h : ∀ v ∈ vs, v ≠ 0b10) : inertRun refGraph 0 vs = some 0 := by
  induction vs with
  | nil => rfl
  | cons v vs ih =>
    exact inertRun_cons_eq_some.mpr ⟨0, inertPair_idle v (mem_allPairs v) (h v List.mem_cons_self),
      ih fun u hu => h u (List.mem_cons_of_mem _ hu)⟩

/-- With one pair replaced, the start pattern leads back to `IDLE` before its Reset edge. -/
theorem inertRun_damagedStart : ∀ k < 10, ∀ v ∈ allPairs, (startPattern .bHigh)[k]? ≠ some v →
    inertRun refGraph 0 ((startPattern .bHigh).set k v) = some 0 := by decide +kernel

/-- Met in `IDLE`, the transitions of a bit pair at most begin a start pattern, and lead back to `IDLE`. -/
theorem inertRun_encGroup : ∀ b hi lo : Bool, inertRun refGraph 0 (encGroup .bHigh b hi lo) = some 0 := by decide

theorem inertRun_encByte (b : Bool) (d : Byte) : inertRun refGraph 0 (encByte .bHigh b d) = some 0 :=
  inertRun_append (inertRun_append (inertRun_append (inertRun_encGroup _ _ _) (inertRun_encGroup _ _ _))
    (inertRun_encGroup _ _ _)) (inertRun_encGroup _ _ _)

theorem inertRun_encBytes (b : Bool) (data : List Byte) : inertRun refGraph 0 (encBytes .bHigh b data) = some 0 := by
  induction data generalizing b with
  | nil => rfl
  | cons d data ih => exact inertRun_append (inertRun_encByte b d) (ih false)

/-- Of pairs that end in idle ones, whole sample bytes leave over idle ones only. -/
theorem inertRun_used {used left front tail : List Pair} (hpacked : used ++ left = front ++ tail)
    (hleft : left.length ≤ tail.length) (hfront : inertRun refGraph 0 front = some 0) (htail : ∀ v ∈ tail, v ≠ 0b10) :
    inertRun refGraph 0 used = some 0 := by
  obtain ⟨rest, rfl⟩ : front <+: used := by
    have hlength := congrArg List.length hpacked
    simp only [List.length_append] at hlength
    exact List.prefix_of_prefix_length_le (hpacked ▸ List.prefix_append front tail) (List.prefix_append used left) (by omega)
  rw [List.append_assoc, List.append_cancel_left_eq] at hpacked
  exact inertRun_append hfront (inertRun_idle fun v hv => htail v (hpacked ▸ List.mem_append_left _ hv))

/-- Settles O17: every pair of the damaged frame is inert, so its sample bytes lead from `IDLE` to `IDLE` and do nothing else
(`runSamples_of_inert`). -/
theorem damagedStartLeavesNoTrace : Obligations.DamagedStartLeavesNoTrace := by
  rintro data lead k v s - hlead ⟨p, hp, hv⟩ htables hd hf hsrc
  have hk : k < 10 := (List.getElem?_eq_some_iff.mp hp).1
  have hdamaged : inertRun refGraph 0 ((startPattern .bHigh).set k v) = some 0 :=
    inertRun_damagedStart k hk v (mem_allPairs v) fun h => hv (Option.some.inj (h.symm.trans hp))
  have hfront : inertRun refGraph 0 (lead ++ (startPattern .bHigh).set k v ++ encBytes .bHigh true data) = some 0 :=
    inertRun_append (inertRun_append (inertRun_idle hlead) hdamaged) (inertRun_encBytes true data)
  obtain ⟨hpacked, hleft⟩ := packPairs_spec s.cfg.pairOrder
    (lead ++ (startPattern .bHigh).set k v ++ encBytes .bHigh true data ++ endPattern .bHigh)
  have hend : ∀ u ∈ endPattern .bHigh, u ≠ 0b10 := by decide
  have hused := inertRun_used hpacked (hleft.trans (by decide)) hfront hend
  rw [← hd] at hused
  obtain ⟨x, err, hrun⟩ := runSamples_of_inert htables (by omega) hf hsrc hused
  refine ⟨_, hrun, ?_⟩
  cases s
  cases hd
  rfl

end Sys2Proof.Machine

/-! SUPPORT. The decode actions one by one (41_decoder R162 to R168): what each answers in a live block, run alone, and the
decoder step as the run of the actions its entry selects (R160, R161). -/

namespace Sys2Proof.Machine

/-! ### The branches of PUSH, END and the overrun check -/

section Branches

variable {s : State}

theorem State.actPush_of_room (h : cursorSub s.cfg.cursorW s.wr s.rdSeen < s.cfg.ringSize) (nxt : Byte) :
    s.actPush nxt = s.stored nxt := by
  rcases s.actPush_cases nxt with ⟨hlap, -⟩ | ⟨-, hpush⟩
  · exact absurd h (Nat.not_lt.mpr hlap)
  · exact hpush

theorem State.actPush_of_lapped (h : s.cfg.ringSize ≤ cursorSub s.cfg.cursorW s.wr s.rdSeen) (nxt : Byte) :
    s.actPush nxt = s.raiseFatal causeRingOverrun := by
  rcases s.actPush_cases nxt with ⟨-, hpush⟩ | ⟨hroom, -⟩
  · exact hpush
  · exact absurd h (Nat.not_le.mpr hroom)

theorem State.actEnd_of_bad (h : s.rxor ≠ 0) : s.actEnd = s := by
  rcases s.actEnd_cases with ⟨-, hend⟩ | ⟨hgood, -, -⟩ | ⟨hgood, -, -⟩
  · exact hend
  · exact absurd hgood h
  · exact absurd hgood h

theorem State.actEnd_of_full (h : s.rxor = 0) (hfull : s.handoff.length = s.cfg.handoffDepth) :
    s.actEnd = s.raiseFatal causeHandoffOverflow := by
  rcases s.actEnd_cases with ⟨hbad, -⟩ | ⟨-, -, hend⟩ | ⟨-, hroom, -⟩
  · exact absurd h hbad
  · exact hend
  · exact absurd hfull hroom

theorem State.actEnd_of_room (h : s.rxor = 0) (hroom : s.handoff.length ≠ s.cfg.handoffDepth) : s.actEnd = s.published := by
  rcases s.actEnd_cases with ⟨hbad, -⟩ | ⟨-, hfull, -⟩ | ⟨-, -, hend⟩
  · exact absurd h hbad
  · exact absurd hfull hroom
  · exact hend

/-- The overrun check of a step that raised no fatal, which raises `SAMPLE_OVERRUN` where a transition was lost (R167). -/
theorem State.unlessFatal_overrunCheck (t : State) :
    t.unlessFatal State.overrunCheck =
      if t.fatal then t else if t.srcOverrun then { t with fatal := true, fatalCause := 2 } else t := by
  cases hf : t.fatal with
  | true => simp [hf]
  | false =>
    rcases t.overrunCheck_cases with ⟨hsrc, h⟩ | ⟨hsrc, h⟩
    · simp [hf, hsrc, h]
    · simp [hf, hsrc, h, State.raiseFatal_of_live hf, causeSampleOverrun]

end Branches

/-! ### The actions run alone in a live block -/

section Alone

variable {s : State} (hf : s.fatal = false)

include hf

theorem exec_actNext_of_lt {n : Nat} (hn : n < s.cfg.numStates) : exec (.actNext n) s = .next (s.actNext n) :=
  (whenLive_of_live hf _).trans (if_pos hn)

theorem exec_actReset_of_live : exec .actReset s = .next s.actReset := whenLive_of_live hf _

theorem exec_actOr_of_row {o : Nat} {row : Byte × Byte} (h : s.orRow o = some row) :
    exec (.actOr o) s = .next (s.actOr row.1) := by
  simp only [exec, execActOr, whenLive_of_live hf, h]

theorem exec_actPush_of_row {o : Nat} {row : Byte × Byte} (h : s.orRow o = some row) :
    exec (.actPush o) s = .next (s.actPush row.2) := by
  simp only [exec, execActPush, whenLive_of_live hf, h]

theorem exec_actEnd_of_live : exec .actEnd s = .next s.actEnd := whenLive_of_live hf _

theorem exec_actError_of_live : exec .actError s = .next s.actError := whenLive_of_live hf _

end Alone

/-- Settles O5. -/
theorem nextLoadsDecodeState : Obligations.NextLoadsDecodeState :=
  fun _ _ hf hn => exec_actNext_of_lt hf hn

/-- Settles O6. -/
theorem resetReturnsToPacketStart : Obligations.ResetReturnsToPacketStart :=
  fun _ hf => exec_actReset_of_live hf

/-- Settles O7. -/
theorem orSetsProvenBits : Obligations.OrSetsProvenBits :=
  fun _ _ _ _ hf hrow => exec_actOr_of_row hf hrow

/-- Settles O8: with room in the ring the Push stores the byte (`State.actPush_of_room`), and the ring reads as the laws of a
memory write say. -/
theorem pushStoresTheByte : Obligations.PushStoresTheByte := by
  intro o s cur nxt hf hrow hring hroom
  refine ⟨Memory.write s.ring (s.ringIndex s.wr) s.acc, ?answer, Memory.write_wf hring _ _, Memory.read_write_same hring _ _,
    fun a ha => Memory.read_write_other _ _ ha⟩
  case answer => rw [exec_actPush_of_row hf hrow, State.actPush_of_room hroom]; rfl

/-- Settles O9: the two branches of `ACT.END` that raise no fatal. -/
theorem endPublishesGoodPackets : Obligations.EndPublishesGoodPackets := by
  intro s hf
  rw [exec_actEnd_of_live hf]
  refine ⟨fun hgood hroom => ?_, fun hbad => ?_⟩
  · rw [State.actEnd_of_room hgood hroom.ne]; rfl
  · rw [State.actEnd_of_bad hbad]

/-- Settles O10: the branches of `ACT.PUSH` and `ACT.END` that raise a fatal, in a block that has not halted. -/
theorem backpressureHalts : Obligations.BackpressureHalts := by
  intro s hf
  refine ⟨fun o cur nxt hrow hlap => ?_, fun hgood hfull => ?_⟩
  · rw [exec_actPush_of_row hf hrow, State.actPush_of_lapped hlap, State.raiseFatal_of_live hf]; rfl
  · rw [exec_actEnd_of_live hf, State.actEnd_of_full hgood hfull, State.raiseFatal_of_live hf]; rfl

/-- Settles O11. -/
theorem errorOnlyRaisesItsOutput : Obligations.ErrorOnlyRaisesItsOutput :=
  fun _ hf => exec_actError_of_live hf

/-! ### The actions of an entry one after another -/

/-- The change of the state at a place of an entry whose OR row is `row` (30_encoding R97). -/
def slotChange (e : Tte) (row : Byte × Byte) : Slot → State → State
  | .next => (State.actNext · e.next)
  | .reset => State.actReset
  | .or => (State.actOr · row.1)
  | .push => (State.actPush · row.2)
  | .endPkt => State.actEnd
  | .error => State.actError

/-- The changes at places one after another, where the entry selects them and no fatal comes first. -/
def State.performSlots (s : State) (e : Tte) (row : Byte × Byte) (slots : List Slot) : State :=
  slots.foldl (fun u k => u.perform (e.selects k) (slotChange e row k)) s

section Slots

variable {s : State} {e : Tte} {row : Byte × Byte}

theorem State.performSlots_of_halted (h : s.fatal = true) (slots : List Slot) : s.performSlots e row slots = s := by
  induction slots with
  | nil => rfl
  | cons k slots ih => rw [State.performSlots, List.foldl_cons, State.perform_of_halted h]; exact ih

theorem slotChange_captureFrame (s : State) (e : Tte) (row : Byte × Byte) (k : Slot) :
    CaptureFrame s (slotChange e row k s) := by
  cases k with
  | push => exact s.actPush_captureFrame row.2
  | endPkt => exact s.actEnd_captureFrame
  | next | reset | or | error => exact .of_eq rfl

/-- The action of a place, run alone, makes the change of the place. -/
theorem exec_action (hf : s.fatal = false) (hn : e.next < s.cfg.numStates) (hrow : s.orRow e.oridx = some row) (k : Slot) :
    exec (e.action k) s = .next (slotChange e row k s) := by
  cases k with
  | next => exact exec_actNext_of_lt hf hn
  | reset => exact exec_actReset_of_live hf
  | or => exact exec_actOr_of_row hf hrow
  | push => exact exec_actPush_of_row hf hrow
  | endPkt => exact exec_actEnd_of_live hf
  | error => exact exec_actError_of_live hf

/-- The selected actions, run one after another, make the changes of their places. -/
theorem runActions_slots (hf : s.fatal = false) (hn : e.next < s.cfg.numStates) (hrow : s.orRow e.oridx = some row)
    (slots : List Slot) :
    runActions ((slots.filter e.selects).map e.action) s = .next (s.performSlots e row slots) := by
  induction slots generalizing s with
  | nil => rfl
  | cons k slots ih =>
    cases hk : e.selects k with
    | false =>
      rw [List.filter_cons_of_neg (by simp [hk]), ih hf hn hrow]
      simp [State.performSlots, hk]
    | true =>
      have hfold : s.performSlots e row (k :: slots) = (slotChange e row k s).performSlots e row slots := by
        simp [State.performSlots, hk, hf]
      rw [List.filter_cons_of_pos hk, List.map_cons, runActions, exec_action hf hn hrow, andThen_of_next, hfold]
      cases ht : (slotChange e row k s).fatal with
      | true => rw [if_pos rfl, State.performSlots_of_halted ht]
      | false =>
        obtain ⟨hcfg, -, hortab, -⟩ := (slotChange_captureFrame s e row k).constants
        exact ih ht (hcfg ▸ hn) (by rwa [State.orRow, hortab])

/-- A decoder step makes the changes at the six places in the order of R161, and then the overrun check. -/
theorem State.decStep_eq_performSlots (hf : s.fatal = false) :
    s.decStep e row =
      (s.performSlots e row [.next, .reset, .or, .push, .endPkt, .error]).unlessFatal State.overrunCheck := by
  have hreset : ((s.actNext e.next).perform e.reset State.actReset).fatal = false := by
    cases e.reset <;> simp [hf]
  simp only [State.performSlots, List.foldl_cons, List.foldl_nil, Tte.selects, slotChange, State.perform_true,
    State.unlessFatal_of_live hf, State.unlessFatal_of_live hreset]
  rfl

end Slots

/-- Settles O12: the step is the changes of the six places (`State.decStep_eq_performSlots`), and the selected actions make the
same changes (`runActions_slots`). -/
theorem samplePerformsSelectedActions : Obligations.SamplePerformsSelectedActions := by
  intro b s e row hf hentry hlegal hrow
  obtain ⟨hn, -, -⟩ := entryLegal_iff.mp hlegal
  have hsample : exec (.sample b) s = .next (s.beginDecoderStep.decStep e row) :=
    execSample_next.mpr ⟨hf, e, row, hentry, hlegal, hrow, rfl⟩
  have hactions : runActions e.actions s.beginDecoderStep = .next
      (s.beginDecoderStep.performSlots e row [.next, .reset, .or, .push, .endPkt, .error]) :=
    runActions_slots (s := s.beginDecoderStep) hf hn hrow _
  rw [hsample, hactions, andThen_of_next, State.decStep_eq_performSlots (by exact hf), State.unlessFatal_overrunCheck]

end Sys2Proof.Machine

/-! SUPPORT. A decoder step as a whole (41_decoder R160, R167, R169 to R171): when it raises a fatal, what any step keeps, what
the reference walks select, and the step against the decoder that consumes one pair at a time. -/

namespace Sys2Proof.Machine

open Config (Edge Graph PairOrder)

/-! ### The end of a decoder step -/

/-- What a decoder step does behind END: ERROR where the entry selects it, and the overrun check (R161, R167). -/
def State.closeStep (s : State) (err : Bool) : State := (s.perform err State.actError).unlessFatal State.overrunCheck

section Close

variable {s : State} {err : Bool}

theorem State.closeStep_of_halted (h : s.fatal = true) : s.closeStep err = s := by
  rw [State.closeStep, State.perform_of_halted h, State.unlessFatal_of_halted h]

theorem State.perform_actError (h : s.fatal = false) :
    s.perform err State.actError = s.withCopy s.rdSeen (s.errPulse || err) := by
  cases err with
  | false => rw [Bool.or_false]; rfl
  | true => rw [State.perform_true, State.unlessFatal_of_live h, Bool.or_true]; rfl

theorem State.closeStep_of_live (h : s.fatal = false) (hsrc : s.srcOverrun = false) :
    s.closeStep err = s.withCopy s.rdSeen (s.errPulse || err) := by
  rw [State.closeStep, State.perform_actError h, State.unlessFatal_overrunCheck, if_neg, if_neg]
  · simp [State.withCopy, hsrc]
  · simp [State.withCopy, h]

theorem State.closeStep_of_lost (h : s.fatal = false) (hsrc : s.srcOverrun = true) : (s.closeStep err).fatal = true := by
  rw [State.closeStep, State.perform_actError h, State.unlessFatal_overrunCheck, if_neg, if_pos]
  · exact hsrc
  · simp [State.withCopy, h]

/-- A step that ends without a fatal had none before, and the sample source lost nothing. -/
theorem State.live_of_closeStep (h : (s.closeStep err).fatal = false) : s.fatal = false ∧ s.srcOverrun = false := by
  cases hf : s.fatal with
  | true => rw [State.closeStep_of_halted hf, hf] at h; cases h
  | false =>
    cases hsrc : s.srcOverrun with
    | true => rw [State.closeStep_of_lost hf hsrc] at h; cases h
    | false => exact ⟨rfl, rfl⟩

/-- The end of a step changes only the optional output and the fatal registers. -/
theorem State.closeStep_eq (s : State) (err : Bool) :
    s.closeStep err =
      { s with
        errPulse := (s.closeStep err).errPulse
        fatal := (s.closeStep err).fatal
        fatalCause := (s.closeStep err).fatalCause } := by
  cases hf : s.fatal with
  | true => rw [State.closeStep_of_halted hf]
  | false =>
    rw [State.closeStep, State.perform_actError hf, State.unlessFatal_overrunCheck]
    split_ifs <;> rfl

end Close

/-! ### When the actions of a walk raise no fatal -/

section Walks

variable {s : State} {w : Walk}

/-- RESET and OR of a walk touch the write cursor, the byte and the running XOR only (R163, R164). -/
theorem State.gather_eq (hf : s.fatal = false) (w : Walk) :
    s.gather w =
      { s with
        wr := if w.reset then s.pstart else s.wr
        acc := (if w.reset then 0 else s.acc) ||| w.cur
        rxor := if w.reset then 0 else s.rxor } := by
  rw [State.gather_of_live hf]
  cases w.reset <;> rfl

/-- A Push, if selected, stores its byte where the ring has room. -/
theorem State.perform_push_of_room {b : Bool} (hf : s.fatal = false)
    (hroom : b = true → cursorSub s.cfg.cursorW s.wr s.rdSeen < s.cfg.ringSize) (nxt : Byte) :
    s.perform b (State.actPush · nxt) = if b then s.stored nxt else s := by
  cases b with
  | false => rfl
  | true => rw [State.perform_true, State.unlessFatal_of_live hf, State.actPush_of_room (hroom rfl)]; rfl

/-- An End raises no fatal where the handoff has room. -/
theorem State.perform_end_fatal {b : Bool} (hf : s.fatal = false) (hqueue : s.handoff.length ≠ s.cfg.handoffDepth) :
    (s.perform b State.actEnd).fatal = false := by
  cases b with
  | false => exact hf
  | true =>
    rw [State.perform_true, State.unlessFatal_of_live hf]
    rcases s.actEnd_cases with ⟨-, h⟩ | ⟨-, hfull, -⟩ | ⟨-, -, h⟩
    · rw [h]; exact hf
    · exact absurd hfull hqueue
    · rw [h]; exact hf

/-- A walk raises no fatal where the ring has room at the cursor its Push finds, and the handoff has room. -/
theorem State.act_fatal_of_room (hf : s.fatal = false)
    (hroom : w.push = true →
      cursorSub s.cfg.cursorW (if w.reset then s.pstart else s.wr) s.rdSeen < s.cfg.ringSize)
    (hqueue : s.handoff.length ≠ s.cfg.handoffDepth) : (s.act w).fatal = false := by
  have hgather := State.gather_eq hf w
  have hstore : s.store w = if w.push then (s.gather w).stored w.nxt else s.gather w :=
    State.perform_push_of_room (State.gather_fatal hf w) (by rw [hgather]; exact hroom) _
  have hstored : (s.store w).fatal = false ∧ (s.store w).handoff.length ≠ (s.store w).cfg.handoffDepth := by
    rw [hstore, hgather]
    cases w.push <;> exact ⟨hf, hqueue⟩
  exact State.perform_end_fatal hstored.1 hstored.2

/-- A Push that raised no fatal has stored its byte. -/
theorem State.perform_push_of_live {b : Bool} {nxt : Byte} (hf : s.fatal = false)
    (h : (s.perform b (State.actPush · nxt)).fatal = false) :
    s.perform b (State.actPush · nxt) = if b then s.stored nxt else s := by
  cases b with
  | false => rfl
  | true =>
    rw [State.perform_true, State.unlessFatal_of_live hf] at h ⊢
    rcases s.actPush_cases nxt with ⟨-, hlap⟩ | ⟨-, hroom⟩
    · rw [hlap] at h; cases h
    · exact hroom

/-- An End that raised no fatal has published a good packet, and dropped a bad one. -/
theorem State.perform_end_of_live {b : Bool} (hf : s.fatal = false) (h : (s.perform b State.actEnd).fatal = false) :
    s.perform b State.actEnd = if b = true ∧ s.rxor = 0 then s.published else s := by
  cases b with
  | false => rw [if_neg fun hc => Bool.false_ne_true hc.1]; rfl
  | true =>
    rw [State.perform_true, State.unlessFatal_of_live hf] at h ⊢
    rcases s.actEnd_cases with ⟨hx, hbad⟩ | ⟨-, -, hfull⟩ | ⟨hx, -, hgood⟩
    · rw [hbad, if_neg fun hc => hx hc.2]
    · rw [hfull] at h; cases h
    · rw [if_pos ⟨rfl, hx⟩]; exact hgood

/-- A walk that raises no fatal goes through: its Push stores the byte and its End publishes a good packet. -/
theorem State.act_of_live (hf : s.fatal = false) (h : (s.act w).fatal = false) :
    s.store w = (if w.push then (s.gather w).stored w.nxt else s.gather w) ∧
      s.act w = if w.endFlag = true ∧ (s.store w).rxor = 0 then (s.store w).published else s.store w := by
  have hstore : (s.store w).fatal = false := by
    cases hhalted : (s.store w).fatal with
    | false => rfl
    | true => rw [State.act, State.perform_of_halted hhalted, hhalted] at h; cases h
  exact ⟨State.perform_push_of_live (State.gather_fatal hf w) hstore, State.perform_end_of_live hstore h⟩

end Walks

/-! ### What every decoder step keeps -/

/-- How far a decoder step that began in `s` can have come: a DecodeState of the graph, nothing of the other agent or of the
environment touched, and no fatal but those of the capture agent (10_state R20, 60_exceptions R331). -/
structure Stepping (s u : State) : Prop where
  dstate : u.dstate < s.cfg.numStates
  frame : CaptureFrame s u
  cause : u.fatal = true → u.fatalCause = 1 ∨ u.fatalCause = 2 ∨ u.fatalCause = 3
  kept : u.fatal = false → u.fatalCause = s.fatalCause

section Stepping

variable {s u v : State}

/-- A change of the capture registers that raises no fatal. -/
theorem Stepping.goOn (h : Stepping s u) (hframe : CaptureFrame u v) (hd : v.dstate < s.cfg.numStates)
    (hfatal : v.fatal = u.fatal) (hcause : v.fatalCause = u.fatalCause) : Stepping s v where
  dstate := hd
  frame := h.frame.trans hframe
  cause := by rw [hfatal, hcause]; exact h.cause
  kept := by rw [hfatal, hcause]; exact h.kept

theorem Stepping.raiseFatal (h : Stepping s u) {code : BitVec 3} (hcode : code = 1 ∨ code = 2 ∨ code = 3) :
    Stepping s (u.raiseFatal code) where
  dstate := h.dstate
  frame := h.frame.trans (.of_eq rfl)
  cause := fun _ => by
    rw [State.raiseFatal_fatalCause]
    split
    · next hf => exact h.cause hf
    · exact hcode
  kept := nofun

theorem Stepping.actPush (h : Stepping s u) (nxt : Byte) : Stepping s (u.actPush nxt) := by
  rcases u.actPush_cases nxt with ⟨-, heq⟩ | ⟨-, heq⟩ <;> rw [heq]
  · exact h.raiseFatal (.inr (.inr rfl))
  · exact h.goOn (.of_eq rfl) h.dstate rfl rfl

theorem Stepping.actEnd (h : Stepping s u) : Stepping s u.actEnd := by
  rcases u.actEnd_cases with ⟨-, heq⟩ | ⟨-, -, heq⟩ | ⟨-, -, heq⟩ <;> rw [heq]
  · exact h
  · exact h.raiseFatal (.inl rfl)
  · exact h.goOn (.of_eq rfl) h.dstate rfl rfl

theorem Stepping.overrunCheck (h : Stepping s u) : Stepping s u.overrunCheck := by
  rcases u.overrunCheck_cases with ⟨-, heq⟩ | ⟨-, heq⟩ <;> rw [heq]
  · exact h
  · exact h.raiseFatal (.inr (.inl rfl))

theorem execSample_stepping {b : Byte} {t : State} (hd : s.dstate < s.cfg.numStates) (h : execSample b s = .next t) :
    Stepping s t := by
  obtain ⟨hf, e, row, -, hlegal, -, rfl⟩ := execSample_next.mp h
  obtain ⟨hn, -, -⟩ := entryLegal_iff.mp hlegal
  have hbegin : Stepping s s.beginDecoderStep :=
    { dstate := hd
      frame := .of_eq rfl
      cause := fun hhalted => absurd (hf.symm.trans hhalted) nofun
      kept := fun _ => rfl }
  exact State.decStep_keeps hbegin
    (next := fun u hu => hu.goOn (.of_eq rfl) hn rfl rfl)
    (reset := fun u hu => hu.goOn (.of_eq rfl) hu.dstate rfl rfl)
    (or := fun u hu => hu.goOn (.of_eq rfl) hu.dstate rfl rfl)
    (push := fun u hu => hu.actPush _)
    (endPkt := fun u hu => hu.actEnd)
    (error := fun u hu => hu.goOn (.of_eq rfl) hu.dstate rfl rfl)
    (overrun := fun u hu => hu.overrunCheck)

end Stepping

/-! ### What the reference walks select, in either pair order -/

/-- The walks of `k` pairs, gone on, are among the walks of more pairs. -/
theorem foldl_micro_mem_walksFrom {g : Graph} {s k : Nat} {w : Walk} (hw : w ∈ walksFrom g s k) (vs : List Pair) :
    vs.foldl (micro g) w ∈ walksFrom g s (k + vs.length) := by
  induction vs generalizing k w with
  | nil => exact hw
  | cons v vs ih =>
    have hnext : micro g w v ∈ walksFrom g s (k + 1) :=
      mem_addAll.mpr (.inr (List.mem_flatMap.mpr ⟨w, hw, List.mem_map.mpr ⟨v, mem_allPairs v, rfl⟩⟩))
    rw [List.foldl_cons, List.length_cons, Nat.add_comm vs.length, ← Nat.add_assoc]
    exact ih hnext

theorem compile_mem_walks (o : PairOrder) (g : Graph) (s : Nat) (b : Byte) : compile o g s b ∈ walksFrom g s 4 := by
  have hstart : { st := s } ∈ walksFrom g s 0 := List.mem_singleton_self _
  have hmem := foldl_micro_mem_walksFrom hstart (samplePairs o b)
  rwa [samplePairs_length] at hmem

/-- No reference walk carries Reset and Push together (30_encoding R98). -/
theorem compile_refGraph_reset (o : PairOrder) {s : Nat} (hs : s < 36) (b : Byte)
    (hpush : (compile o refGraph s b).push = true) : (compile o refGraph s b).reset = false := by
  have hexclusive : ∀ f ∈ refFlags, f.1 = true → f.2.1 = false := by decide
  exact hexclusive _ (refGraph_walk_flags s hs _ (compile_mem_walks o refGraph s b)) hpush

/-- From `IDLE` and `START1` to `START9` no walk reaches a Push or an End, and bits are gathered only behind a Reset (R171). -/
theorem compile_refGraph_start (o : PairOrder) {s : Nat} (hs : s ≤ 9) (b : Byte) :
    (compile o refGraph s b).push = false ∧ (compile o refGraph s b).endFlag = false ∧
      ((compile o refGraph s b).reset = false → (compile o refGraph s b).cur = 0) := by
  have hstart : ∀ s < 10, ∀ w ∈ walksFrom refGraph s 4,
      w.push = false ∧ w.endFlag = false ∧ (w.reset = false → w.cur = 0) := by decide +kernel
  exact hstart s (Nat.lt_succ_of_le hs) _ (compile_mem_walks o refGraph s b)

/-! ### A decoder step defined for every DecodeState and byte -/

/-- With built tables every byte has its step: the actions of its compiled walk and the end of the step (R160, R170). -/
theorem exec_sample_of_built {s : State} (h : BuiltTables s) (hf : s.fatal = false) (hs : s.dstate < s.cfg.numStates)
    (b : Byte) {w : Walk} (hw : w = compile s.cfg.pairOrder s.cfg.graph s.dstate b) :
    exec (.sample b) s = .next (((s.beginDecoderStep.actNext w.st).act w).closeStep w.error) :=
  execSample_of_built h hf hs hw

/-- Where the walk raises no fatal with an exact copy of the release cursor, and nothing was lost, the step raises none. -/
theorem closeStep_live_of_act {s : State} {w : Walk} (hact : ((s.actNext w.st).act w).fatal = false)
    (hsrc : s.srcOverrun = false) (hexact : s.rdSeen = s.rdRelease) :
    (((s.beginDecoderStep.actNext w.st).act w).closeStep w.error).fatal = false := by
  obtain ⟨x, hx, hbegin⟩ := State.beginDecoderStep_exact (s := s) (by rw [hexact])
  have hwalk : (s.withCopy x false).walk? w = some (((s.actNext w.st).act w).withCopy x false) := by
    rw [State.walk?_withCopy hx, State.walk?, State.live?_of_live hact]
    rfl
  obtain ⟨hlive, -, -, hframe⟩ := State.walk?_some hwalk
  obtain ⟨-, hbegun⟩ := State.live?_eq_some.mp hwalk
  rw [hbegin, hbegun, State.closeStep_of_live hlive (hframe.source.srcOverrun.trans hsrc)]
  exact hlive

/-- Settles O13: the step of the compiled walk exists (`exec_sample_of_built`), keeps what any step keeps
(`execSample_stepping`), and raises no fatal where ring and handoff have room (`State.act_fatal_of_room`). -/
theorem sampleCompletesOnEveryByte : Obligations.SampleCompletesOnEveryByte := by
  intro b s hf hbuilt hd
  refine ⟨fun hgraph => congrArg (fun g : Graph => g.cells.length) hgraph, ?_⟩
  obtain ⟨w, hw⟩ : ∃ w, w = compile s.cfg.pairOrder s.cfg.graph s.dstate b := ⟨_, rfl⟩
  have hstep := exec_sample_of_built hbuilt hf hd b hw
  have h := execSample_stepping hd hstep
  refine ⟨_, hstep, h.dstate, ?fatals, fun hsrc hqueue hexact hwr hpstart => ?live, h.frame.constants, h.frame.dispatch,
    h.frame.source⟩
  case fatals => exact (Bool.eq_false_or_eq_true _).symm.imp_right h.cause
  case live =>
    have hroom : w.push = true →
        cursorSub s.cfg.cursorW (if w.reset then s.pstart else s.wr) s.rdSeen < s.cfg.ringSize := by
      intro hpush
      rcases hpstart with hgraph | hpstart
      · have hstates : s.dstate < 36 := hd.trans_eq (congrArg (fun g : Graph => g.cells.length) hgraph)
        rw [hgraph] at hw
        subst hw
        rw [compile_refGraph_reset _ hstates b hpush]
        exact hwr
      · split
        · exact hpstart
        · exact hwr
    have hact : ((s.actNext w.st).act w).fatal = false := State.act_fatal_of_room hf hroom hqueue.ne
    have hlive := closeStep_live_of_act hact hsrc hexact
    exact ⟨hlive, h.kept hlive⟩

/-! ### Outside a frame -/

/-- Settles O18: outside a frame the walk of any byte selects no Push and no End (`compile_refGraph_start`), so only RESET and OR
touch the registers (`State.gather_eq`). -/
theorem nothingPushedOutsideFrames : Obligations.NothingPushedOutsideFrames := by
  intro b s t e htables hd hentry hstep
  obtain ⟨hf, -⟩ := execSample_next.mp hstep
  have hstates : s.cfg.numStates = 36 := congrArg (fun g : Graph => g.cells.length) htables.graph
  have hlt : s.dstate < s.cfg.numStates := by omega
  obtain ⟨w, hw⟩ : ∃ w, w = compile s.cfg.pairOrder s.cfg.graph s.dstate b := ⟨_, rfl⟩
  rw [exec_sample_of_built htables.built hf hlt b hw] at hstep
  obtain rfl := Host.Outcome.next.inj hstep
  rw [State.tableEntry_of_built htables.built hlt] at hentry
  obtain rfl := Option.some.inj hentry
  have hnext : (compileEntry s.cfg.pairOrder s.cfg.graph (orTable s.cfg) s.dstate b).next = w.st := by rw [hw]; rfl
  have hreset : (compileEntry s.cfg.pairOrder s.cfg.graph (orTable s.cfg) s.dstate b).reset = w.reset := by rw [hw]; rfl
  rw [hnext, hreset]
  obtain ⟨hpush, hend, hcur⟩ : w.push = false ∧ w.endFlag = false ∧ (w.reset = false → w.cur = 0) := by
    rw [hw, htables.graph]
    exact compile_refGraph_start _ hd b
  have hact : (s.beginDecoderStep.actNext w.st).act w = (s.beginDecoderStep.actNext w.st).gather w := by
    simp [State.act, State.store, hpush, hend]
  rw [State.closeStep_eq, hact, State.gather_eq (by exact hf)]
  refine ⟨rfl, rfl, rfl, rfl, fun hr => ?_, fun hr => ?_⟩
  · rw [hr, hcur hr]
    exact ⟨rfl, rfl, BitVec.or_zero⟩
  · rw [hr]
    exact ⟨rfl, rfl⟩

/-! ### One pair at a time

`Run1` makes no fatal check, so each part of it is a plain change of the state where the edge carries the flag (R169). -/

/-- The Reset of an edge in `Run1`. -/
def State.edgeReset (s : State) (e : Edge) : State := if e.reset then s.actReset else s

/-- The Push of an edge in `Run1`. -/
def State.edgePush (s : State) (e : Edge) : State := if e.push then s.stored 0 else s

/-- The End of an edge in `Run1`. -/
def State.edgeEnd (s : State) (e : Edge) : State := if e.endFlag = true ∧ s.rxor = 0 then s.published else s

theorem State.takeEdge_eq (s : State) (e : Edge) :
    s.takeEdge e = ((((s.edgeReset e).actOr e.setmask).edgePush e).edgeEnd e).actNext e.next := by
  simp only [State.takeEdge, State.checksumGood, beq_iff_eq]
  rfl

section OnePair

variable {g : Graph} {s t : State}

/-- Where the actions of an edge raise no fatal, they do what `Run1` does with the edge. -/
theorem State.takeEdge_of_live (hf : s.fatal = false) {r : EdgeResult} (h : (s.act (edgeWalk r)).fatal = false) :
    s.takeEdge r.edge = (s.act (edgeWalk r)).actNext r.edge.next := by
  obtain ⟨hstore, hact⟩ := State.act_of_live hf h
  rw [State.gather_of_live hf] at hstore
  rw [hact, hstore, State.takeEdge_eq]
  rfl

theorem State.run1_of_pair? (hf : s.fatal = false) {v : Pair} (h : s.pair? g v = some t) : s.run1 g v = t := by
  rw [State.pair?, micro_start, State.walk?, State.act_actNext, State.live?_eq_some] at h
  obtain ⟨hlive, rfl⟩ := h
  exact State.takeEdge_of_live hf hlive

/-- Pairs that raise no fatal do what the decoder of single pairs does. -/
theorem State.runPairs_of_pairs? (hf : s.fatal = false) {vs : List Pair} (h : s.pairs? g vs = some t) :
    s.runPairs g vs = t := by
  induction vs generalizing s with
  | nil => exact Option.some.inj h
  | cons v vs ih =>
    rw [State.pairs?_cons, Option.bind_eq_some_iff] at h
    obtain ⟨u, hu, hrest⟩ := h
    obtain ⟨hlive, -⟩ := State.walk?_some hu
    rw [State.runPairs, List.foldl_cons, State.run1_of_pair? hf hu]
    exact ih hlive hrest

/-- The decoder of single pairs reads neither the copy of the release cursor nor the optional output. -/
theorem State.takeEdge_withCopy (s : State) (x : Nat) (err : Bool) (e : Edge) :
    (s.withCopy x err).takeEdge e = (s.takeEdge e).withCopy x err := by
  have hreset : ∀ u : State, (u.withCopy x err).edgeReset e = (u.edgeReset e).withCopy x err := by
    intro u
    rw [State.edgeReset, State.edgeReset, apply_ite (State.withCopy · x err)]
    rfl
  have hpush : ∀ u : State, (u.withCopy x err).edgePush e = (u.edgePush e).withCopy x err := by
    intro u
    rw [State.edgePush, State.edgePush, apply_ite (State.withCopy · x err)]
    rfl
  have hend : ∀ u : State, (u.withCopy x err).edgeEnd e = (u.edgeEnd e).withCopy x err := by
    intro u
    rw [State.edgeEnd, State.edgeEnd, apply_ite (State.withCopy · x err)]
    rfl
  have hor : ∀ u : State, (u.withCopy x err).actOr e.setmask = (u.actOr e.setmask).withCopy x err := fun _ => rfl
  rw [State.takeEdge_eq, hreset, hor, hpush, hend, State.takeEdge_eq]
  rfl

theorem State.runPairs_withCopy (s : State) (x : Nat) (err : Bool) (vs : List Pair) :
    (s.withCopy x err).runPairs g vs = (s.runPairs g vs).withCopy x err := by
  induction vs generalizing s with
  | nil => rfl
  | cons v vs ih =>
    have hrun1 : (s.withCopy x err).run1 g v = (s.run1 g v).withCopy x err := s.takeEdge_withCopy x err _
    rw [State.runPairs, List.foldl_cons, hrun1]
    exact ih _

end OnePair

/-- Settles O15: the pairs of the byte do what its walk does (`State.pairs?_eq_walk?`), and where no fatal is raised they do what
the decoder of single pairs does (`State.runPairs_of_pairs?`). -/
theorem sampleEqualsFourMicroSteps : Obligations.SampleEqualsFourMicroSteps := by
  intro b s t htables hd hstep hlive
  obtain ⟨hf, -⟩ := execSample_next.mp hstep
  have hstates : s.cfg.numStates = 36 := congrArg (fun g : Graph => g.cells.length) htables.graph
  obtain ⟨w, hw⟩ : ∃ w, w = compile s.cfg.pairOrder s.cfg.graph s.dstate b := ⟨_, rfl⟩
  rw [exec_sample_of_built htables.built hf (hstates ▸ hd) b hw] at hstep
  obtain rfl := Host.Outcome.next.inj hstep
  obtain ⟨hact, hsrc⟩ := State.live_of_closeStep hlive
  obtain ⟨x, hbegin⟩ : ∃ x, s.beginDecoderStep = s.withCopy x false := ⟨_, rfl⟩
  rw [hbegin] at hact hsrc ⊢
  have hpairs : (s.withCopy x false).pairs? refGraph (samplePairs s.cfg.pairOrder b) =
      some (((s.withCopy x false).actNext w.st).act w) := by
    rw [State.pairs?_eq_walk? (by exact hf) (allowsAll_samplePairs (by exact hd) _ b), ← State.live?_of_live hact, hw,
      htables.graph]
    rfl
  have hrun := State.runPairs_of_pairs? (by exact hf) hpairs
  rw [State.runPairs_withCopy] at hrun
  rw [State.closeStep_of_live hact hsrc, ← hrun]
  exact ⟨rfl, rfl, rfl, rfl, rfl, rfl, rfl⟩

end Sys2Proof.Machine

/-! SUPPORT. The cursors and the copy-out (42_ring_handoff R202 to R204): the cursor invariants through the turn of each agent,
without the other invariants of the ring, and the packet that a copy-out leaves in `RAW`. -/

namespace Sys2Proof.Machine

/-! ### The cursor invariants through a turn (R204) -/

/-- A decoder step keeps the order of the cursors whatever the ring holds: a push goes on only below the lap limit, and a
Reset and an End move one cursor onto the other. -/
theorem CursorInv.of_captureTurn {s t : State} (hs : CursorInv s) (h : captureTurn s = .next t) : CursorInv t :=
  captureTurn_induction h hs (same := fun _ _ huv hu => hu.same huv) (draw := fun _ _ hx hu => hu.draw hx)
    (reset := fun _ hu => hu.actReset) (store := fun _ nxt hroom hu => hu.stored hroom nxt)
    (publish := fun _ _ hu => hu.published)

/-- Of a dispatch step only the copy-out moves cursors, and it moves `rd` to the oldest published end offset. -/
theorem CursorInv.of_dispatchTurn {s t : State} (hs : CursorInv s) (h : dispatchTurn s = .next t) : CursorInv t :=
  dispatchTurn_induction h hs (same := fun _ _ huv hu => hu.same huv) (copyOut := fun _ _ hq => hs.copyOut hq)

/-- Settles O58: reset and the turn of each agent keep the cursor invariants. -/
theorem stepKeepsCursorInvariants : Obligations.StepKeepsCursorInvariants := by
  intro s t hs h
  exact step_induction h hs (same := fun _ _ huv hu => hu.same huv) (rst := fun _ hu => hu.afterRst)
    (capture := fun _ _ hu h => hu.of_captureTurn h) (dispatch := fun _ _ hu h => hu.of_dispatchTurn h)

/-! ### The packet in `RAW` (R202, R203) -/

section ShortRun

variable {s : State} {endOff : Nat} (rest : List Nat) (h : cursorSub s.cfg.cursorW endOff s.rd ≤ Config.pktMaxBytes)

include h

/-- A length of at most `PKT_MAX_BYTES` fits the 11 bits of `rawlen`. -/
theorem State.copyOut_rawlen : (s.copyOut endOff rest).rawlen.toNat = cursorSub s.cfg.cursorW endOff s.rd := by
  rw [State.copyOut_short rest h]
  exact Nat.mod_eq_of_lt (Nat.lt_of_le_of_lt h (by decide))

theorem State.copyOut_raw :
    (s.copyOut endOff rest).raw = Memory.writeRun s.raw 0 (s.ringRun s.rd (cursorSub s.cfg.cursorW endOff s.rd)) := by
  rw [State.copyOut_short rest h]

/-- The packet in `RAW` is the run of the ring, linear from index 0. -/
theorem State.copyOut_rawBytes (hraw : Memory.wf s.raw) :
    (s.copyOut endOff rest).rawBytes = s.ringRun s.rd (cursorSub s.cfg.cursorW endOff s.rd) := by
  rw [State.rawBytes, State.copyOut_rawlen rest h, State.copyOut_raw rest h]
  have hread := Memory.prefixBytes_writeRun hraw (s.ringRun s.rd (cursorSub s.cfg.cursorW endOff s.rd))
  rwa [State.length_ringRun] at hread

end ShortRun

/-- Settles O27: a run of at most `PKT_MAX_BYTES` bytes is written to `RAW` from index 0 (`State.copyOut_rawBytes`), and a
longer one is only released (`State.copyOut_long`). -/
theorem copyOutMovesTheRun : Obligations.CopyOutMovesTheRun := by
  intro s endOff rest hraw
  refine ⟨fun hshort => ?_, State.copyOut_long rest⟩
  have hframe (a : Nat) (ha : cursorSub s.cfg.cursorW endOff s.rd ≤ a) :
      Memory.read (Memory.writeRun s.raw 0 (s.ringRun s.rd (cursorSub s.cfg.cursorW endOff s.rd))) a =
        Memory.read s.raw a :=
    Memory.read_writeRun_outside _ _ (.inr (by rwa [State.length_ringRun, Nat.zero_add]))
  exact ⟨_, State.copyOut_short rest hshort, State.copyOut_rawBytes rest hshort hraw, State.copyOut_rawlen rest hshort,
    Memory.writeRun_wf hraw _ _, hframe⟩

end Sys2Proof.Machine

/-! SUPPORT. The checksum of words (43_validator R233 to R237): the diffusion byte by byte, linearity, the port bits of a header
word, and the two ways to a dynamic checksum (45_response_mux R301). -/

namespace Sys2Proof.Machine

/-! ### Words and their bytes (20_memory R70) -/

section Bytes

variable (b3 b2 b1 b0 : Byte)

theorem exists_be32 (w : Word) : ∃ b3 b2 b1 b0 : Byte, w = be32 b3 b2 b1 b0 := ⟨_, _, _, _, (be32_wordBytes w).symm⟩

@[simp] theorem wordBytes_be32 : wordBytes (be32 b3 b2 b1 b0) = [b3, b2, b1, b0] :=
  congrArg₂ _ (hdrCount_be32 ..) <| congrArg₂ _ (hdrOrigin_be32 ..) <| congrArg₂ _ (hdrDest_be32 ..) <|
    congrArg₂ _ (hdrCommand_be32 ..) rfl

theorem be32_xor (c3 c2 c1 c0 : Byte) :
    be32 b3 b2 b1 b0 ^^^ be32 c3 c2 c1 c0 = be32 (b3 ^^^ c3) (b2 ^^^ c2) (b1 ^^^ c1) (b0 ^^^ c0) := by
  ext i hi
  grind [be32]

theorem be32_shiftLeft_byte : be32 b3 b2 b1 b0 <<< 8 = be32 b2 b1 b0 0 := by
  ext i hi
  grind [be32]

end Bytes

/-- A field of a field. -/
theorem extract_extract {w a n b m : Nat} (x : BitVec w) (h : b + m ≤ n) :
    (x.extractLsb' a n).extractLsb' b m = x.extractLsb' (a + b) m := by
  ext i hi
  rw [BitVec.getElem_extractLsb', BitVec.getElem_extractLsb', BitVec.getLsbD_extractLsb',
    decide_eq_true (by omega), Bool.true_and, Nat.add_assoc]

/-! ### The diffusion (R234) -/

/-- The diffusion takes running exclusive ORs of the bytes, from the least significant byte up (R235). -/
theorem diffuse_be32 (b3 b2 b1 b0 : Byte) :
    diffuse (be32 b3 b2 b1 b0) = be32 (b3 ^^^ b2 ^^^ b1 ^^^ b0) (b2 ^^^ b1 ^^^ b0) (b1 ^^^ b0) b0 := by
  have hhalf : be32 b3 b2 b1 b0 <<< 16 = be32 b1 b0 0 0 := by
    rw [BitVec.shiftLeft_add _ 8 8, be32_shiftLeft_byte, be32_shiftLeft_byte]
  have htop : b3 ^^^ b1 ^^^ (b2 ^^^ b0) = b3 ^^^ b2 ^^^ b1 ^^^ b0 := by ac_rfl
  have hsecond : b2 ^^^ b0 ^^^ b1 = b2 ^^^ b1 ^^^ b0 := by ac_rfl
  simp only [diffuse, hhalf, be32_xor, be32_shiftLeft_byte, BitVec.ofNat_eq_ofNat, BitVec.xor_zero, htop, hsecond]

/-- One round of the diffusion is linear. -/
theorem xor_shiftLeft_linear (a b : Word) (n : Nat) :
    (a ^^^ b) ^^^ (a ^^^ b) <<< n = (a ^^^ a <<< n) ^^^ (b ^^^ b <<< n) := by
  rw [BitVec.shiftLeft_xor_distrib]
  ac_rfl

theorem diffuse_xor (a b : Word) : diffuse (a ^^^ b) = diffuse a ^^^ diffuse b := by
  rw [diffuse, xor_shiftLeft_linear a b 16]
  exact xor_shiftLeft_linear _ _ 8

theorem diffuse_topByte (w : Word) : (diffuse w).extractLsb' 24 8 = xorBytes (wordBytes w) := by
  obtain ⟨b3, b2, b1, b0, rfl⟩ := exists_be32 w
  rw [diffuse_be32, wordBytes_be32]
  simp only [xorBytes, BitVec.ofNat_eq_ofNat, BitVec.xor_zero, ← BitVec.xor_assoc]
  exact hdrCount_be32 ..

/-! ### The checksum of a list of words -/

@[simp] theorem cks_nil : cks [] = 0 := rfl

theorem cks_cons (w : Word) (ws : List Word) : cks (w :: ws) = diffuse w ^^^ cks ws := diffuse_xor w (xorWords ws)

theorem cks_append (u v : List Word) : cks (u ++ v) = cks u ^^^ cks v := by
  induction u with
  | nil => rw [List.nil_append, cks_nil]; exact BitVec.zero_xor.symm
  | cons w u ih => rw [List.cons_append, cks_cons, cks_cons, ih, BitVec.xor_assoc]

theorem cks_zipWith_xor {u v : List Word} (h : u.length = v.length) :
    cks (List.zipWith (fun x y => x ^^^ y) u v) = cks u ^^^ cks v := by
  induction u generalizing v with
  | nil =>
    obtain rfl := List.eq_nil_of_length_eq_zero h.symm
    rfl
  | cons x u ih =>
    obtain ⟨y, v, rfl⟩ := List.exists_cons_of_length_eq_add_one h.symm
    rw [List.zipWith_cons_cons, cks_cons, cks_cons, cks_cons, ih (Nat.succ.inj h), diffuse_xor]
    ac_rfl

/-- Words of zeros do not change a checksum. -/
theorem cks_replicate_zero (n : Nat) : cks (List.replicate n 0) = 0 := by
  induction n with
  | zero => rfl
  | succ n ih => rw [List.replicate_succ, cks_cons, ih]; rfl

/-- The byte of the checksum word that is sent is the checksum byte of the words' bytes (R233). -/
theorem cks_topByte (ws : List Word) : (cks ws).extractLsb' 24 8 = xorBytes (wordsBytes ws) := by
  induction ws with
  | nil => rfl
  | cons w ws ih =>
    have hbytes : wordsBytes (w :: ws) = wordBytes w ++ wordsBytes ws := rfl
    rw [cks_cons, BitVec.extractLsb'_xor, diffuse_topByte, ih, hbytes, Laws.EncodeFits.xorBytes_append]

/-- Settles O22: the top byte word by word (`cks_topByte`), the four bytes by the byte form of the diffusion. -/
theorem checksumByteForm : Obligations.ChecksumByteForm := by
  refine fun ws => ⟨cks_topByte ws, fun b3 b2 b1 b0 h => ?bytes⟩
  case bytes => rw [cks, h, diffuse_be32]

/-- Settles O23. -/
theorem checksumIsLinear : Obligations.ChecksumIsLinear := ⟨fun _ _ => cks_zipWith_xor, cks_append⟩

/-! ### The port bits of a header word (R237) -/

section Ports

variable (k : Fin 7) (p : BitVec 2)

/-- The diffusion of a port's two copies: the upper copy cancels the shifted lower one. -/
theorem diffuse_headerPorts : diffuse (headerPorts k p) = p.setWidth 32 <<< (8 + k.val) := by revert k p; decide

theorem headerPorts_and_mask : headerPorts k p &&& headerPorts k 3 = headerPorts k p := by revert k p; decide

/-- Into zero port fields a port is patched by exclusive OR. -/
theorem patchHeader_of_zero {h : Word} (hz : h &&& headerPorts k 3 = 0) : patchHeader k h p = h ^^^ headerPorts k p := by
  ext i hi
  have hbit := congrArg (·[i]) hz
  have hport := congrArg (·[i]) (headerPorts_and_mask k p)
  simp only [BitVec.getElem_and, BitVec.ofNat_eq_ofNat, BitVec.getElem_zero] at hbit hport
  simp only [patchHeader, BitVec.getElem_or, BitVec.getElem_and, BitVec.getElem_not, BitVec.getElem_xor]
  grind

theorem cks_patchHeader {h : Word} (hz : h &&& headerPorts k 3 = 0) (ws : List Word) :
    cks (patchHeader k h p :: ws) = cks (h :: ws) ^^^ (p.setWidth 32 <<< (8 + k.val)) := by
  rw [patchHeader_of_zero k p hz, cks_cons, cks_cons, diffuse_xor, diffuse_headerPorts]
  ac_rfl

theorem shiftedPort_high : ((p.setWidth 32 : Word) <<< (8 + k.val)).extractLsb' 16 16 = 0#16 := by revert k p; decide

theorem cks_patchHeader_high {h : Word} (hz : h &&& headerPorts k 3 = 0) (ws : List Word) :
    (cks (patchHeader k h p :: ws)).extractLsb' 16 16 = (cks (h :: ws)).extractLsb' 16 16 := by
  rw [cks_patchHeader k p hz, BitVec.extractLsb'_xor, shiftedPort_high, BitVec.xor_zero]

end Ports

/-- Settles O24. -/
theorem portsCancelInChecksum : Obligations.PortsCancelInChecksum :=
  fun k _ p ws hz => ⟨cks_patchHeader k p hz ws, cks_patchHeader_high k p hz ws⟩
end Sys2Proof.Machine

/-! SUPPORT. The validator (43_validator R220 to R231): the words of the packet in `RAW`, the packets that are parsed and those
that are dropped, and the request that the registers carry. -/

namespace Sys2Proof.Machine

/-! ### The words in `RAW` (20_memory R69) -/

/-- The word at four bytes of a memory. -/
def Memory.readWord (m : Memory) (a : Nat) : Word :=
  be32 (Memory.read m a) (Memory.read m (a + 1)) (Memory.read m (a + 2)) (Memory.read m (a + 3))

/-- Bytes given by their index are assembled into words four at a time. -/
theorem bytesToWords_map_range (f : Nat → Byte) (n : Nat) :
    bytesToWords ((List.range n).map f) =
      (List.range (n / 4)).map fun i => be32 (f (4 * i)) (f (4 * i + 1)) (f (4 * i + 2)) (f (4 * i + 3)) := by
  induction n using Nat.strong_induction_on generalizing f with
  | _ n ih =>
    match n, ih with
    | 0, _ | 1, _ | 2, _ | 3, _ => rfl
    | n + 4, ih =>
      have hwords : (n + 4) / 4 = n / 4 + 1 := by omega
      have hfour : (List.range (n + 4)).map f = f 0 :: f 1 :: f 2 :: f 3 :: (List.range n).map fun i => f (i + 4) := by
        simp [List.range_succ_eq_map, Function.comp_def]
      rw [hfour, bytesToWords, ih n (by omega) fun i => f (i + 4), hwords, List.range_succ_eq_map, List.map_cons,
        List.map_map]
      rfl

theorem State.bytesToWords_rawBytes (s : State) :
    bytesToWords s.rawBytes = (List.range (s.rawlen.toNat / 4)).map fun i => Memory.readWord s.raw (4 * i) :=
  bytesToWords_map_range (Memory.read s.raw) s.rawlen.toNat

theorem State.rawBytes_length (s : State) : s.rawBytes.length = s.rawlen.toNat := Memory.length_prefixBytes _ _

/-- The length tests on the packet in `RAW`: they speak of `rawlen` and of the count in the first word (R222 to R224), and the
words are read in order. -/
theorem State.packetWords_rawBytes {s : State} {h : Word} {ws : List Word} :
    packetWords s.rawBytes = some (h :: ws) ↔
      s.rawlen.toNat % 4 = 1 ∧ s.rawlen.toNat - 1 = ((hdrCount h).toNat + 1) * 4 ∧ h = Memory.readWord s.raw 0 ∧
        ws = (List.range (hdrCount h).toNat).map fun i => Memory.readWord s.raw (4 * i + 4) := by
  rw [packetWords_some, State.bytesToWords_rawBytes, State.rawBytes_length]
  have hwords (hlen : s.rawlen.toNat - 1 = ((hdrCount h).toNat + 1) * 4) (hmod : s.rawlen.toNat % 4 = 1) :
      (List.range (s.rawlen.toNat / 4)).map (fun i => Memory.readWord s.raw (4 * i)) =
        Memory.readWord s.raw 0 ::
          (List.range (hdrCount h).toNat).map fun i => Memory.readWord s.raw (4 * i + 4) := by
    have hcount : s.rawlen.toNat / 4 = (hdrCount h).toNat + 1 := by omega
    rw [hcount, List.range_succ_eq_map, List.map_cons, List.map_map]
    rfl
  constructor
  · rintro ⟨hmod, hsplit, hlen⟩
    rw [hwords hlen hmod, List.cons.injEq] at hsplit
    exact ⟨hmod, hlen, hsplit.1.symm, hsplit.2.symm⟩
  · rintro ⟨hmod, hlen, hh, hws⟩
    exact ⟨hmod, by rw [hwords hlen hmod, hws, hh], hlen⟩

/-! ### The request in the registers (R228 to R231) -/

/-- The registers of a parsed packet carry the fields of its header and its payload. -/
theorem State.pendingRequest_parsed {s : State} {h : Word} {ws : List Word} (hcount : ws.length = (hdrCount h).toNat)
    (hdest : Memory.read s.raw 2 = hdrDest h) : (s.parsed h ws).pendingRequest = requestOf s.cfg h ws := by
  have hpayload : (ws ++ s.pw.drop ws.length).take (hdrCount h).toNat = ws := by rw [← hcount, List.take_left]
  simp only [State.pendingRequest, requestOf, State.parsed_cfg, State.parsed_activePort, State.parsed_horg,
    State.parsed_hdst, State.parsed_hcmd, State.parsed_raw, State.parsed_pw, State.parsed_hnw, hdest, hpayload]

/-- Settles O4: both sides match the fields of the first word in `RAW`, whose Destination is its third byte. -/
theorem registersCarryTheRequest : Obligations.RegistersCarryTheRequest := by
  intro s t hvalid
  obtain ⟨-, h, ws, hwords, rfl⟩ := State.validate_some.mp hvalid
  obtain ⟨-, -, hh, -⟩ := State.packetWords_rawBytes.mp hwords
  have hdest : Memory.read s.raw 2 = hdrDest h := by rw [hh, Memory.readWord, hdrDest_be32]
  rw [State.pendingRequest_parsed (packetWords_count hwords) hdest]
  simp only [decode, hwords]

/-! ### Parsing and dropping (R220) -/

/-- `VAL` drops a packet unless it is not oversize and its length is that of the count in its first word. -/
theorem State.validate_eq_none {s : State}
    (h : ¬(s.oversize = false ∧ s.rawlen.toNat % 4 = 1 ∧
      s.rawlen.toNat - 1 = ((hdrCount (Memory.readWord s.raw 0)).toNat + 1) * 4)) : s.validate = none := by
  refine Option.eq_none_iff_forall_ne_some.mpr fun t ht => h ?_
  obtain ⟨hover, hd, ws, hwords, -⟩ := State.validate_some.mp ht
  obtain ⟨hmod, hlen, hfirst, -⟩ := State.packetWords_rawBytes.mp hwords
  exact ⟨hover, hmod, hfirst ▸ hlen⟩

/-- The payload words that `VAL` writes, each at its own index, and the old words behind them. -/
theorem getElem?_parsed_pw {f : Nat → Word} {n : Nat} (old : List Word) (i : Nat) :
    ((List.range n).map f ++ old.drop n)[i]? = if i < n then some (f i) else old[i]? := by
  split
  · next hi =>
    rw [List.getElem?_append_left (by simpa using hi), List.getElem?_map, List.getElem?_range hi, Option.map_some]
  · next hi =>
    rw [List.getElem?_append_right (by simpa using hi), List.length_map, List.length_range, List.getElem?_drop,
      Nat.add_sub_cancel' (Nat.not_lt.mp hi)]

/-- Settles O28: the length tests and the words of `State.packetWords_rawBytes`. -/
theorem validatorParsesOrDrops : Obligations.ValidatorParsesOrDrops := by
  refine ⟨by decide, fun s len n h hrawlen hfirst hn hpw => ?_⟩
  obtain rfl : n = (hdrCount h).toNat := hn
  replace hfirst : h = Memory.readWord s.raw 0 := hfirst
  have hcount := (hdrCount h).isLt
  rw [hrawlen]
  refine ⟨fun hbad => State.validate_eq_none ?drops, fun hover hmod _ hlen => ?parses⟩
  case drops =>
    rw [← hfirst]
    rintro ⟨hover, hmod, hlen⟩
    simp only [hover, Bool.false_eq_true, false_or] at hbad
    omega
  case parses =>
    have hwords := State.packetWords_rawBytes.mpr ⟨hmod, hlen, hfirst, rfl⟩
    have hvalid := State.validate_some.mpr ⟨hover, h, _, hwords, rfl⟩
    have hport : addrPort s.cfg.portShift (hdrOrigin h) = h.extractLsb' (16 + s.cfg.portShift.val) 2 :=
      extract_extract h (by omega)
    rw [State.parsed, hport, List.length_map, List.length_range] at hvalid
    refine ⟨_, hvalid, ?_, fun i hi => ?_, fun i hi => ?_⟩
    · rw [List.length_append, List.length_map, List.length_range, List.length_drop, hpw]
      omega
    · rw [getElem?_parsed_pw, if_pos hi]
      rfl
    · rw [getElem?_parsed_pw, if_neg (Nat.not_lt.mpr hi)]

/-! ### Dropped packets (60_exceptions R336, R345) -/

/-- Whatever the length of the run, the copy-out consumes the entry, releases its bytes and writes only `RAW` and its length. -/
theorem State.copyOut_eq (s : State) (endOff : Nat) (rest : List Nat) :
    ∃ raw rawlen oversize, s.copyOut endOff rest =
      { s with
        handoff := rest, raw := raw, rawlen := rawlen, oversize := oversize
        rd := alignUp s.cfg.cursorW endOff s.cfg.startAlign, rdRelease := alignUp s.cfg.cursorW endOff s.cfg.startAlign } := by
  rcases Nat.lt_or_ge Config.pktMaxBytes (cursorSub s.cfg.cursorW endOff s.rd) with hlong | hshort
  · exact ⟨_, _, _, s.copyOut_long rest hlong⟩
  · exact ⟨_, _, _, s.copyOut_short rest hshort⟩

theorem packetPart_of_dropped {s : State} {endOff : Nat} {rest : List Nat} (h : (s.copyOut endOff rest).validate = none) :
    packetPart s endOff rest = .next (s.copyOut endOff rest) := by
  simp only [packetPart, h]
  rfl

theorem packetPart_of_valid {s t : State} {endOff : Nat} {rest : List Nat} (h : (s.copyOut endOff rest).validate = some t) :
    packetPart s endOff rest = exec t.pendingRequest t := by simp only [packetPart, h]

/-- The three operations of a packet that matches no request leave a live block as it is (R267 to R269). -/
theorem exec_of_nonMatch {i : Instr} {q : Req} {dst cmd : Byte} {t : State} (hlive : t.fatal = false)
    (h : i = .notOurs q dst cmd ∨ i = .unrec q dst cmd ∨ i = .badPhase q dst cmd) : exec i t = .next t := by
  rcases h with rfl | rfl | rfl <;> exact whenLive_of_live hlive _

/-- Settles O29: the copy-out and the parse leave the selection, the outstanding read and the request log alone
(`State.copyOut_eq`, `State.parsed`), and nothing runs after them. -/
theorem droppedPacketLeavesSelection : Obligations.DroppedPacketLeavesSelection := by
  intro s endOff rest hlive
  obtain ⟨raw, rawlen, oversize, hcopied⟩ := s.copyOut_eq endOff rest
  refine ⟨fun hdrop => ⟨packetPart_of_dropped hdrop, by rw [hcopied]⟩, fun t q dst cmd hvalid hreq => ?_⟩
  rw [packetPart_of_valid hvalid]
  obtain ⟨-, h, ws, -, rfl⟩ := State.validate_some.mp hvalid
  rw [hcopied] at hreq ⊢
  exact ⟨exec_of_nonMatch hlive hreq, rfl, rfl, rfl, rfl, rfl, rfl, rfl, rfl, { SameCapture.refl s with }⟩

/-- Settles O30: the first published run is good, and the copy-out puts its bytes into `RAW` (`State.copyOut_rawBytes`). -/
theorem copiedPacketHasZeroXor : Obligations.CopiedPacketHasZeroXor := by
  intro s endOff rest _ hsum hraw hq hshort
  have hruns := hsum.published
  rw [hq] at hruns
  obtain ⟨hgood, -⟩ := hruns
  rwa [State.copyOut_rawBytes rest hshort hraw]

end Sys2Proof.Machine

/-! SUPPORT. Responses on the wire (45_response_mux R292 to R304): the form of a well-formed image and of the words built from it,
and the packet that is sent. -/

namespace Sys2Proof.Machine

/-! ### Well-formed images (R293) -/

section Images

variable {cfg : Config.Params} {x : BitVec 4} {img : List Word}

/-- An image with the size of its selector has a count word, a header and a checksum word. -/
theorem imageFits_parts (h : imageFits cfg x img = true) :
    ∃ (w0 hd c : Word) (payload : List Word), img = w0 :: hd :: (payload ++ [c]) := by
  have hlen : 3 ≤ img.length := by
    unfold imageFits at h
    split at h
    · have := beq_iff_eq.mp h
      omega
    · rw [Bool.and_eq_true] at h
      exact of_decide_eq_true h.1
  match img, hlen with
  | w0 :: hd :: w :: rest, _ =>
    exact ⟨w0, hd, _, _, by rw [List.dropLast_append_getLast (List.cons_ne_nil w rest)]⟩

theorem imageWellFormed_fits (h : imageWellFormed cfg x img = true) : imageFits cfg x img = true :=
  (Bool.and_eq_true_iff.mp h).1

theorem imageWellFormed_iff {w0 h c : Word} {payload : List Word} :
    imageWellFormed cfg x (w0 :: h :: (payload ++ [c])) = true ↔
      imageFits cfg x (w0 :: h :: (payload ++ [c])) = true ∧ w0 = wireFrameWordCount payload.length ∧
        (hdrCount h).toNat = payload.length ∧ h &&& headerPorts cfg.portShift 3 = 0 ∧ c = cks (h :: payload) ∧
        ∀ len, dynLen cfg x = some len → (payload.drop 1).take len = List.replicate len 0 := by
  simp only [imageWellFormed, List.dropLast_concat, List.getLast?_concat, Bool.and_eq_true, beq_iff_eq,
    decide_eq_true_eq, Option.some.injEq, and_assoc]
  cases dynLen cfg x <;> simp

/-- The image of each selector value but 0 stands in a well-formed catalog (R293; 00_scope R5). -/
theorem catalog_image {tpl : List (List Word)} (h : catalogWellFormed cfg tpl = true) (h0 : x ≠ 0)
    (hx : x.toNat < cfg.numSel) : ∃ img, tpl[x.toNat - 1]? = some img ∧ imageWellFormed cfg x img = true := by
  have hpos : 0 < x.toNat := Nat.pos_of_ne_zero fun e => h0 (BitVec.eq_of_toNat_eq e)
  have hlt := x.isLt
  simp only [catalogWellFormed, Bool.and_eq_true, decide_eq_true_eq, List.all_eq_true, List.mem_range,
    Bool.or_eq_true] at h
  obtain ⟨hlen, himages⟩ := h
  have hget : tpl[x.toNat - 1]? = some tpl[x.toNat - 1] := List.getElem?_eq_getElem (by omega)
  refine ⟨_, hget, ?_⟩
  have hsel : BitVec.ofNat 4 (x.toNat - 1 + 1) = x := by rw [Nat.sub_add_cancel hpos, BitVec.ofNat_toNat, BitVec.setWidth_eq]
  rcases himages (x.toNat - 1) (by omega) with hout | himage
  · omega
  · rwa [hsel, hget] at himage

end Images

/-- Settles O26: the dynamic window of the template holds zeros, which its checksum does not see. -/
theorem dynamicChecksumByDelta : Obligations.DynamicChecksumByDelta := by
  intro cfg x w0 h f c zeros d len hdyn hzeros hd himage
  obtain ⟨-, -, -, -, hc, hwindow⟩ := imageWellFormed_iff (payload := f :: zeros).mp himage
  obtain rfl : zeros = List.replicate len 0 := by
    have := hwindow len hdyn
    rwa [List.drop_one, List.tail_cons, ← hzeros, List.take_length, hzeros] at this
  have hsplit (ws : List Word) : cks (h :: f :: ws) = cks [h, f] ^^^ cks ws := cks_append [h, f] ws
  rw [hc, hsplit d, hsplit (List.replicate len 0), cks_replicate_zero]
  exact congrArg (· ^^^ cks d) BitVec.xor_zero.symm

/-! ### The words that are built (R298, R301) -/

theorem State.replyWords_length (s : State) (n : Nat) : (s.replyWords n).length = n := by simp [State.replyWords]

/-- The dynamic words fill the window (R297). -/
theorem State.dynWords_length {s : State} {x : BitVec 4} {len : Nat} (h : dynLen s.cfg x = some len) :
    (s.dynWords x).length = len := by
  unfold dynLen at h
  unfold State.dynWords
  split_ifs at h ⊢ <;> cases h <;> simp [State.replyWords_length, Nat.add_comm]

/-- Static or dynamic, the built image has the count word and the header of its template, as many payload words, and the
checksum word of header and payload. -/
theorem muxImage_parts {s : State} {x : BitVec 4} {w0 h c : Word} {old : List Word}
    (himage : imageWellFormed s.cfg x (w0 :: h :: (old ++ [c])) = true) :
    ∃ payload : List Word, payload.length = old.length ∧
      muxImage x s (w0 :: h :: (old ++ [c])) = w0 :: h :: (payload ++ [cks (h :: payload)]) := by
  obtain ⟨hfits, -, -, -, hc, -⟩ := imageWellFormed_iff.mp himage
  cases hdyn : dynLen s.cfg x with
  | none => exact ⟨old, rfl, by simp [muxImage, hdyn, hc]⟩
  | some len =>
    have hlen : old.length = len + 1 := by
      simp only [imageFits, hdyn, beq_iff_eq, List.length_cons, List.length_append, List.length_nil] at hfits
      omega
    obtain ⟨f, zeros, rfl⟩ := List.exists_cons_of_length_eq_add_one hlen
    refine ⟨f :: s.dynWords x, ?_, by simp [muxImage, hdyn]⟩
    rw [List.length_cons, State.dynWords_length hdyn, hlen]

@[simp] theorem State.muxBuild_out (s : State) (x : BitVec 4) (img : List Word) :
    (s.muxBuild x img).out = patchPort s.cfg.portShift s.activePort (muxImage x s img) := rfl

/-! ### The packet on the wire (R292, R304) -/

theorem xorBytes_rawOfWords (ws : List Word) : xorBytes (rawOfWords ws) = 0 := by
  rw [rawOfWords, Laws.EncodeFits.xorBytes_append]
  simp [xorBytes]

/-- The wire carries the words between the count word and the checksum word, and of the latter the top byte. -/
theorem wireBytes_parts (w0 c : Word) (ws : List Word) :
    wireBytes (w0 :: (ws ++ [c])) = wordsBytes ws ++ [c.extractLsb' 24 8] := by
  rw [wireBytes, List.drop_one, List.tail_cons, List.dropLast_concat, ← List.cons_append, List.getLastD_concat]

/-- The port patch leaves the checksum byte good: a patched image is the raw packet of its words (R304, R237). -/
theorem wireBytes_patched {k : Fin 7} {h : Word} (hz : h &&& headerPorts k 3 = 0) (w0 : Word) (p : BitVec 2)
    (payload : List Word) :
    wireBytes (w0 :: patchHeader k h p :: (payload ++ [cks (h :: payload)])) = rawOfWords (patchHeader k h p :: payload) := by
  have htop (c : Word) : c.extractLsb' 24 8 = (c.extractLsb' 16 16).extractLsb' 8 8 := Eq.symm (extract_extract c (by decide))
  rw [← List.cons_append, wireBytes_parts, htop, ← cks_patchHeader_high k p hz, ← htop, cks_topByte]
  rfl

/-- What a free transmitter is given for a well-formed image: a valid packet with the image's count word and header, at the
active port. -/
theorem State.sent_packet {s : State} {x : BitVec 4} {img : List Word} (himage : imageWellFormed s.cfg x img = true) :
    ∃ (w0 h c : Word) (payload : List Word),
      (s.muxBuild x img).out = w0 :: h :: payload ++ [c] ∧ w0 = wireFrameWordCount payload.length ∧
      wireBytes (s.muxBuild x img).out = rawOfWords (h :: payload) ∧ (hdrCount h).toNat = payload.length ∧
      addrPort s.cfg.portShift (hdrOrigin h) = s.activePort ∧ addrPort s.cfg.portShift (hdrDest h) = s.activePort := by
  obtain ⟨w0, h, c, old, rfl⟩ := imageFits_parts (imageWellFormed_fits himage)
  obtain ⟨payload, hlen, hbuilt⟩ := muxImage_parts himage
  obtain ⟨-, hw0, hcount, hz, -, -⟩ := imageWellFormed_iff.mp himage
  rw [State.muxBuild_out, hbuilt]
  refine ⟨w0, patchHeader s.cfg.portShift h s.activePort, cks (h :: payload), payload, rfl, hlen ▸ hw0,
    wireBytes_patched hz .., ?count, ?origin, ?destination⟩
  case count => rw [hdrCount_patchHeader, hcount, hlen]
  case origin => rw [hdrOrigin_patchHeader, addrPort_addrByte (addrId_idem _ _)]
  case destination => rw [hdrDest_patchHeader, addrPort_addrByte (addrId_idem _ _)]

/-- Settles O44: the catalog has a well-formed image for the selector, and what is built from it and sent is the raw packet of
its words (`State.sent_packet`), which the length tests pass. -/
theorem sentResponseIsValidPacket : Obligations.SentResponseIsValidPacket := by
  intro s x i hlive hfree hcatalog hx hi
  obtain ⟨hsel, -⟩ := decodeSel_isSome.mp (Option.isSome_of_eq_some hi)
  obtain ⟨img, hget, himage⟩ := catalog_image hcatalog hx hsel
  obtain ⟨w0, h, c, payload, hout, hw0, hwire, hcount, horigin, hdest⟩ := (s.request .txBusy).sent_packet himage
  have hexec : exec i s = trySend x s := by
    rw [exec_of_decodeSel hi, whenLive_of_live hlive, if_neg (show x ≠ selNothing from hx)]
  have hnext := hexec.trans (trySend_free hfree hget (imageWellFormed_fits himage))
  refine ⟨_, w0, h, c, payload, hnext, rfl, List.getLast?_concat, hout, hw0, ?xor, ?words, horigin, hdest⟩
  case xor => exact (congrArg xorBytes hwire).trans (xorBytes_rawOfWords _)
  case words => exact (congrArg packetWords hwire).trans (packetWords_rawOfWords hcount)

end Sys2Proof.Machine

/-! SUPPORT. The storage contract (44_dispatch R270 to R274): runs of bytes written side by side are one run, and the phases of a
block lie side by side. -/

namespace Sys2Proof.Machine

/-! ### Runs of bytes and words -/

/-- Two runs written side by side are one run. -/
theorem Memory.writeRun_append (m : Memory) (a : Nat) (xs ys : List Byte) :
    Memory.writeRun m a (xs ++ ys) = Memory.writeRun (Memory.writeRun m a xs) (a + xs.length) ys := by
  induction xs generalizing m a with
  | nil => rfl
  | cons x xs ih =>
    have hnext : a + (x :: xs).length = a + 1 + xs.length := by rw [List.length_cons]; omega
    rw [hnext]
    exact ih (Memory.write m a x) (a + 1)

/-- A run that was written is read back at its place. -/
theorem Memory.map_read_writeRun {m : Memory} (h : Memory.wf m) (a : Nat) (bs : List Byte) :
    ((List.range bs.length).map fun i => Memory.read (Memory.writeRun m a bs) (a + i)) = bs := by
  refine List.ext_getElem (by simp) fun i _ hi => ?_
  rw [List.getElem_map, List.getElem_range]
  exact Memory.read_writeRun_inside h (List.getElem?_eq_getElem hi)

theorem wordsBytes_append (xs ys : List Word) : wordsBytes (xs ++ ys) = wordsBytes xs ++ wordsBytes ys :=
  List.flatMap_append

/-- Words are read back from their bytes, and what follows makes the further words (20_memory R69, R70). -/
theorem bytesToWords_wordsBytes_append (ws : List Word) (rest : List Byte) :
    bytesToWords (wordsBytes ws ++ rest) = ws ++ bytesToWords rest := by
  induction ws with
  | nil => rfl
  | cons w ws ih =>
    have hbytes : wordsBytes (w :: ws) ++ rest =
        w.extractLsb' 24 8 :: w.extractLsb' 16 8 :: w.extractLsb' 8 8 :: w.extractLsb' 0 8 :: (wordsBytes ws ++ rest) := rfl
    rw [hbytes, bytesToWords, ih, be32_wordBytes, List.cons_append]

/-! ### The address word of a phase (R271 to R273) -/

section PhaseAddress

variable (partition phase block : Byte)

theorem phaseOf_address : phaseOf (partition ++ phase ++ (0 : Byte) ++ block) = phase := by
  unfold phaseOf
  ext i hi
  grind

theorem readBlock_address : readBlock (partition ++ phase ++ (0 : Byte) ++ block) = block.toNat := by
  have hlow : (partition ++ phase ++ (0 : Byte) ++ block).extractLsb' 0 8 = block := by
    ext i hi
    grind
  rw [readBlock, hlow]

theorem writeBlock_address : writeBlock (partition ++ phase ++ (0 : Byte) ++ block) = block.toNat := by
  have hlow : (partition ++ phase ++ (0 : Byte) ++ block).extractLsb' 0 16 = block.setWidth 16 := by
    ext i hi
    grind
  rw [writeBlock, hlow, BitVec.toNat_setWidth, Nat.mod_eq_of_lt (by omega)]

/-- A block that a byte names lies in the image, so what a write outside the image does is never asked (R270, R273). -/
theorem cardWrite_address (oor : WriteOutOfRange) (img : CardImage) (data : List Word) :
    cardWrite oor img (partition ++ phase ++ (0 : Byte) ++ block) data =
      Memory.writeRun img (block.toNat * blockBytes + phase.toNat * phaseBytes) (wordsBytes data) := by
  have hblock := block.isLt
  unfold cardWrite
  rw [phaseOf_address, writeBlock_address]
  cases oor with
  | ignore => exact if_neg (Nat.not_le.mpr hblock)
  | reduce => rw [Nat.mod_eq_of_lt hblock]

end PhaseAddress

/-! ### Four phases make a block -/

/-- Data of one phase behind a run that ends where the phase begins makes the run longer (R270). -/
theorem cardWrite_phase_append {run data : List Word} {partition phase block : Byte} (oor : WriteOutOfRange) (img : CardImage)
    (hrun : run.length = 32 * phase.toNat) :
    cardWrite oor (Memory.writeRun img (block.toNat * blockBytes) (wordsBytes run))
        (partition ++ phase ++ (0 : Byte) ++ block) data =
      Memory.writeRun img (block.toNat * blockBytes) (wordsBytes (run ++ data)) := by
  have hplace : phase.toNat * phaseBytes = (wordsBytes run).length := by
    rw [Laws.EncodeFits.wordsBytes_length, hrun, phaseBytes]
    omega
  rw [cardWrite_address, hplace, wordsBytes_append, Memory.writeRun_append]

/-- A whole block that was written is read back (R272). -/
theorem cardRead_writeRun {img : CardImage} {ws : List Word} {partition phase block : Byte} (h : Memory.wf img)
    (hlen : ws.length = 128) :
    cardRead (Memory.writeRun img (block.toNat * blockBytes) (wordsBytes ws)) (partition ++ phase ++ (0 : Byte) ++ block) =
      ws := by
  have hblock : blockBytes = (wordsBytes ws).length := by rw [Laws.EncodeFits.wordsBytes_length, hlen, blockBytes]
  rw [cardRead, readBlock_address]
  calc bytesToWords ((List.range blockBytes).map fun i =>
          Memory.read (Memory.writeRun img (block.toNat * blockBytes) (wordsBytes ws)) (block.toNat * blockBytes + i))
      = bytesToWords (wordsBytes ws ++ []) := by
        rw [List.append_nil, congrArg List.range hblock, Memory.map_read_writeRun h]
    _ = ws := by rw [bytesToWords_wordsBytes_append]; exact List.append_nil ws

/-- Settles O60: each phase makes the run that the earlier ones wrote longer (`cardWrite_phase_append`), the completion changes no
byte, and the run of all four is the block that is read (`cardRead_writeRun`). -/
theorem storageRoundTrip : Obligations.StorageRoundTrip := by
  intro oor img block partition d0 d1 d2 d3 himg h0 h1 h2 h3
  have hfirst : cardWrite oor img (partition ++ (0 : Byte) ++ (0 : Byte) ++ block) d0 =
      Memory.writeRun img (block.toNat * blockBytes) (wordsBytes d0) := cardWrite_phase_append (run := []) oor img rfl
  rw [hfirst, cardWrite_phase_append oor img (by simp [h0]), cardWrite_phase_append oor img (by simp [h0, h1]),
    cardWrite_phase_append oor img (by simp [h0, h1, h2]), cardComplete]
  exact cardRead_writeRun himg (by simp [h0, h1, h2, h3])

end Sys2Proof.Machine

/-! SUPPORT. The fifteen requests (44_dispatch R252 to R266): which request a row answers, what is left unrecognized, and what each
meaning does once its row's conditions hold. -/

namespace Sys2Proof.Machine

/-! ### The matcher on the rows of one command (R250, R267, R268) -/

section Matching

variable {k : Fin 7} {c : Config.Codes} {q : Req} {dst cmd : Byte} {j n : Nat} {i : Instr} {table : CommandTable}
  {func : Option Word} {phases : Option (List Byte)}

/-- The first payload word is the function code of a request. -/
theorem code_of_some {payload : List Word} {f : Word} (h : payload[0]? = some f) :
    ∀ g, some f = some g → payload[0]? = some g := fun _ hg => h.trans hg

theorem length_pos_of_code {payload : List Word} {f : Word} (h : payload[0]? = some f) : 1 ≤ payload.length :=
  (List.getElem?_eq_some_iff.mp h).1

/-- Under accepted codes two rows of one table and one command, which is a real one, compare different function codes. -/
theorem row_codes_differ (hc : codesLegal k c = true) (hdst : addrId k dst = dst) {j' : Nat} {r t : RequestRow}
    (hj : (requestRows c)[j]? = some r) (hj' : (requestRows c)[j']? = some t) (hroute : routeTo c dst = some r.table)
    (hreal : 0 < r.cmd.toInt) (htable : r.table = t.table) (hcmd : r.cmd = t.cmd) (hne : j ≠ j') :
    ∃ f g, r.func = some f ∧ t.func = some g ∧ f ≠ g := by
  by_contra hsame
  obtain rfl := eq_tableAddr_of_routeTo hroute
  have hclash : r.clash k c t = true :=
    RequestRow.clash_iff.mpr ⟨hdst, hroute, realCommand_iff.mpr hreal, htable, hcmd, fun f g hf hg =>
      by_contra fun hfg => hsame ⟨f, g, hf, hg, hfg⟩⟩
  obtain ⟨hr, ht⟩ := RequestRow.holds_of_clash (requestRows_minWords (List.mem_of_getElem? hj))
    (requestRows_minWords (List.mem_of_getElem? hj')) hclash
  exact hne (row_unique hc hdst hj hj' hr ht)

/-- The row for a request's table and command whose conditions on the payload hold answers it. -/
theorem matchRequest_of_met (hc : codesLegal k c = true) (hdst : addrId k dst = dst)
    (hj : (requestRows c)[j]? = some ⟨table, cmd, func, n, phases⟩) (hi : (rowOperations q)[j]? = some i)
    (hroute : routeTo c dst = some table) (hreal : 0 < cmd.toInt) (hwords : n ≤ q.payload.length)
    (hcode : ∀ f, func = some f → q.payload[0]? = some f) :
    matchRequest c q dst cmd =
      if RequestRow.phaseAllowed ⟨table, cmd, func, n, phases⟩ q.payload then i else .badPhase q dst cmd :=
  matchRequest_of_row hc hdst hj hi (RequestRow.holds_iff.mpr ⟨hroute, rfl, realCommand_iff.mpr hreal, hwords, hcode⟩)

/-- A row without a Phase test answers every request that meets it. -/
theorem matchRequest_of_met_unphased (hc : codesLegal k c = true) (hdst : addrId k dst = dst)
    (hj : (requestRows c)[j]? = some ⟨table, cmd, func, n, none⟩) (hi : (rowOperations q)[j]? = some i)
    (hroute : routeTo c dst = some table) (hreal : 0 < cmd.toInt) (hwords : n ≤ q.payload.length)
    (hcode : ∀ f, func = some f → q.payload[0]? = some f) : matchRequest c q dst cmd = i :=
  (matchRequest_of_met hc hdst hj hi hroute hreal hwords hcode).trans (if_pos rfl)

/-- A row that tests nothing of the payload answers every request for its table and command. -/
theorem matchRequest_of_any_payload (hc : codesLegal k c = true) (hdst : addrId k dst = dst)
    (hj : (requestRows c)[j]? = some ⟨table, cmd, none, 0, none⟩) (hi : (rowOperations q)[j]? = some i)
    (hroute : routeTo c dst = some table) (hreal : 0 < cmd.toInt) : matchRequest c q dst cmd = i :=
  matchRequest_of_met_unphased hc hdst hj hi hroute hreal (Nat.zero_le _) nofun

/-- The block writes allow the Phases 0 to 3 (R260, R264). -/
theorem matchRequest_of_met_write {f a : Word} {rest : List Word} (hc : codesLegal k c = true) (hdst : addrId k dst = dst)
    (hj : (requestRows c)[j]? = some ⟨table, cmd, func, n, some [0, 1, 2, 3]⟩) (hi : (rowOperations q)[j]? = some i)
    (hroute : routeTo c dst = some table) (hreal : 0 < cmd.toInt) (hwords : n ≤ q.payload.length)
    (hcode : ∀ f, func = some f → q.payload[0]? = some f) (hq : q.payload = f :: a :: rest) :
    matchRequest c q dst cmd = if (phaseOf a).toNat ≤ 3 then i else .badPhase q dst cmd := by
  refine (matchRequest_of_met hc hdst hj hi hroute hreal hwords hcode).trans (if_congr ?_ rfl rfl)
  simp [RequestRow.phaseAllowed, hq, ← phase_upto_three]

/-- The block reads allow Phase 0 only, the completion Phase 4 only (R262, R263, R265). -/
theorem matchRequest_of_met_onePhase {p : Byte} {f a : Word} {rest : List Word} (hc : codesLegal k c = true)
    (hdst : addrId k dst = dst) (hj : (requestRows c)[j]? = some ⟨table, cmd, func, n, some [p]⟩)
    (hi : (rowOperations q)[j]? = some i) (hroute : routeTo c dst = some table) (hreal : 0 < cmd.toInt)
    (hwords : n ≤ q.payload.length) (hcode : ∀ f, func = some f → q.payload[0]? = some f) (hq : q.payload = f :: a :: rest) :
    matchRequest c q dst cmd = if phaseOf a = p then i else .badPhase q dst cmd := by
  refine (matchRequest_of_met hc hdst hj hi hroute hreal hwords hcode).trans (if_congr ?_ rfl rfl)
  simp [RequestRow.phaseAllowed, hq]

/-- A request for a row's table and command that does not meet the row is unrecognized, unless it carries a function code that
another row of the table compares. -/
theorem matchRequest_of_unmet (hc : codesLegal k c = true) (hdst : addrId k dst = dst)
    (hj : (requestRows c)[j]? = some ⟨table, cmd, func, n, phases⟩) (hroute : routeTo c dst = some table)
    (hreal : 0 < cmd.toInt) (hunmet : n ≤ q.payload.length → ¬∀ f, func = some f → q.payload[0]? = some f)
    (hother : ∀ t ∈ requestRows c, t.table = table → ∀ f g, func = some f → t.func = some g → q.payload[0]? = some g → f = g) :
    matchRequest c q dst cmd = .unrec q dst cmd := by
  refine matchRequest_of_no_row hroute fun t ht => Bool.eq_false_iff.mpr fun hholds => ?_
  obtain ⟨hroute', hcmd, -, hwords, hcode⟩ := RequestRow.holds_iff.mp hholds
  obtain ⟨j', hj'⟩ := List.getElem?_of_mem ht
  have htable : table = t.table := Option.some.inj (hroute.symm.trans hroute')
  by_cases hjj' : j = j'
  · subst hjj'
    obtain rfl := Option.some.inj (hj.symm.trans hj')
    exact hunmet hwords hcode
  · obtain ⟨f, g, hf, hg, hfg⟩ := row_codes_differ hc hdst hj hj' hroute hreal htable hcmd hjj'
    exact hfg (hother t ht htable.symm f g hf hg (hcode g hg))

/-- A request with too few words for the row of its table, command and function code is unrecognized. -/
theorem matchRequest_of_short (hc : codesLegal k c = true) (hdst : addrId k dst = dst)
    (hj : (requestRows c)[j]? = some ⟨table, cmd, func, n, phases⟩) (hroute : routeTo c dst = some table)
    (hreal : 0 < cmd.toInt) (hcode : ∀ f, func = some f → q.payload[0]? = some f) (hshort : q.payload.length < n) :
    matchRequest c q dst cmd = .unrec q dst cmd :=
  matchRequest_of_unmet hc hdst hj hroute hreal (fun hwords => absurd hwords (Nat.not_le.mpr hshort))
    fun _ _ _ f _ hf _ hg => Option.some.inj ((hcode f hf).symm.trans hg)

/-- The function codes that the rows of a table compare (30_encoding R108). -/
def tableFuncs (c : Config.Codes) : CommandTable → List Word
  | .ctrl => [c.funcController]
  | .mc => [c.funcMemoryCard, c.funcLcd]
  | .vib => []

theorem mem_tableFuncs {t : RequestRow} {g : Word} (ht : t ∈ requestRows c) (hg : t.func = some g) :
    g ∈ tableFuncs c t.table := by
  revert t
  simp +contextual [requestRows, tableFuncs, eq_comm]

/-- Where the row of a table and a command compares a function code, a request without a code of that table is unrecognized. -/
theorem matchRequest_of_foreign_code {f : Word} (hc : codesLegal k c = true) (hdst : addrId k dst = dst)
    (hj : (requestRows c)[j]? = some ⟨table, cmd, some f, n, phases⟩) (hroute : routeTo c dst = some table)
    (hreal : 0 < cmd.toInt) (hforeign : ∀ g ∈ tableFuncs c table, q.payload[0]? ≠ some g) :
    matchRequest c q dst cmd = .unrec q dst cmd :=
  matchRequest_of_unmet hc hdst hj hroute hreal
    (fun _ hcode => hforeign f (mem_tableFuncs (List.mem_of_getElem? hj) rfl) (hcode f rfl))
    fun _ ht htable _ g _ hg hcode => absurd hcode (hforeign g (htable ▸ mem_tableFuncs ht hg))

end Matching

/-! ### What each meaning does once its row's conditions hold -/

theorem Req.word_one {q : Req} {f a : Word} {rest : List Word} (h : q.payload = f :: a :: rest) : q.word 1 = a := by
  simp [Req.word, h]

section Meanings

variable {q : Req} {s : State}

theorem whenLive_recognized {ok : Bool} {r : Result} (hlive : s.fatal = false) (hok : ok = true) :
    whenLive s (recognized ok s r) = r := by
  rw [whenLive_of_live hlive, hok, recognized_true]

theorem whenLive_recognized_withPhase {ok phaseOk : Bool} {r : Result} (hlive : s.fatal = false) (hok : ok = true)
    (hphase : phaseOk = true) : whenLive s (recognized ok s (withPhase phaseOk s r)) = r := by
  rw [whenLive_recognized hlive hok, hphase, withPhase_true]

theorem exec_getcondCtrl (hlive : s.fatal = false) (hcode : q.payload[0]? = some s.cfg.codes.funcController) :
    exec (.getcondCtrl q) s = answer selCtrlStatus s := whenLive_recognized hlive (beq_iff_eq.mpr hcode)

theorem exec_getmediaMc (hlive : s.fatal = false) (hcode : q.payload[0]? = some s.cfg.codes.funcMemoryCard) :
    exec (.getmediaMc q) s = answer selMcMediainfo s := whenLive_recognized hlive (beq_iff_eq.mpr hcode)

theorem exec_getmediaLcd (hlive : s.fatal = false) (hcode : q.payload[0]? = some s.cfg.codes.funcLcd) :
    exec (.getmediaLcd q) s = answer selLcdMediainfo s := whenLive_recognized hlive (beq_iff_eq.mpr hcode)

theorem exec_bwriteMc (hlive : s.fatal = false) (hcode : q.payload[0]? = some s.cfg.codes.funcMemoryCard)
    (hwords : 34 ≤ q.payload.length) (hphase : (phaseOf (q.word 1)).toNat ≤ 3) :
    exec (.bwriteMc q) s = hand (.blkWrite (q.word 1) ((q.payload.drop 2).take 32)) selMcAck s :=
  whenLive_recognized_withPhase hlive (by simp [hcode, Req.count, hwords]) (decide_eq_true hphase)

theorem exec_bwriteLcd (hlive : s.fatal = false) (hcode : q.payload[0]? = some s.cfg.codes.funcLcd)
    (hwords : 3 ≤ q.payload.length) :
    exec (.bwriteLcd q) s = hand (.lcdWrite (q.word 1) (q.payload.drop 2)) selMcAck s :=
  whenLive_recognized hlive (by simp [hcode, Req.count, hwords])

/-- A block read with Phase 0, of either unit, asks for the single outstanding read (R262, R263). -/
theorem exec_bread {f a : Word} {extra : List Word} (hlive : s.fatal = false) (hq : q.payload = f :: a :: extra)
    (hphase : phaseOf a = 0) :
    exec (.breadMc q) s = .next (s.beginRead a .memoryCard selMcBlockdata) ∧
      exec (.breadVib q) s = .next (s.beginRead a .vibrationPack selVibAstdata) := by
  obtain rfl := Req.word_one hq
  have hwords : 2 ≤ q.count := by simp [Req.count, hq]
  exact ⟨whenLive_recognized_withPhase hlive (decide_eq_true hwords) (beq_iff_eq.mpr hphase),
    whenLive_recognized_withPhase hlive (decide_eq_true hwords) (beq_iff_eq.mpr hphase)⟩

theorem exec_bwriteVib (hlive : s.fatal = false) (hwords : 3 ≤ q.payload.length)
    (hphase : (phaseOf (q.word 1)).toNat ≤ 3) :
    exec (.bwriteVib q) s = hand (.astWrite (q.word 1) (q.payload.drop 2)) selVibAck s :=
  whenLive_recognized_withPhase hlive (decide_eq_true hwords) (decide_eq_true hphase)

theorem exec_bcompleteMc (hlive : s.fatal = false) (hwords : 2 ≤ q.payload.length) (hphase : phaseOf (q.word 1) = 4) :
    exec (.bcompleteMc q) s = hand (.blkComplete (q.word 1)) selMcAck s :=
  whenLive_recognized_withPhase hlive (decide_eq_true hwords) (beq_iff_eq.mpr hphase)

theorem exec_setcondVib (hlive : s.fatal = false) (hwords : 2 ≤ q.payload.length) :
    exec (.setcondVib q) s = hand (.vibSet (q.word 1)) selVibAck s :=
  whenLive_recognized hlive (decide_eq_true hwords)

theorem State.beginRead_of_outstanding (h : s.readOutstanding = true) (a : Word) (u : ReadUnit) (x : BitVec 4) :
    s.beginRead a u x = s.raiseFatal causeReadOutstanding := if_pos h

theorem State.beginRead_of_free (h : s.readOutstanding = false) (a : Word) (u : ReadUnit) (x : BitVec 4) :
    s.beginRead a u x = { s with readOutstanding := true, readAddr := a, readUnit := u, sel := x } :=
  if_neg (Bool.eq_false_iff.mp h)

end Meanings

/-! ### The statements -/

/-- Settles O31: the five rows test nothing of the payload, and their meanings only select. -/
theorem informationRequestsSelect : Obligations.InformationRequestsSelect := by
  intro q s c dst hlive _ hc hdst
  refine ⟨fun h => ?defaults, fun hreal => ⟨fun ht => ?ctrl, fun ht => ?mc, fun ht => ?vib⟩,
    fun ht => ⟨fun hreal => ?condition, fun hreal => ?media⟩, whenLive_of_live hlive _, whenLive_of_live hlive _,
    whenLive_of_live hlive _, whenLive_of_live hlive _, whenLive_of_live hlive _⟩
  case defaults => subst h; decide
  case ctrl => exact matchRequest_of_any_payload (j := 0) hc hdst rfl rfl ht hreal
  case mc => exact matchRequest_of_any_payload (j := 1) hc hdst rfl rfl ht hreal
  case vib => exact matchRequest_of_any_payload (j := 2) hc hdst rfl rfl ht hreal
  case condition => exact matchRequest_of_any_payload (j := 4) hc hdst rfl rfl ht hreal
  case media => exact matchRequest_of_any_payload (j := 7) hc hdst rfl rfl ht hreal

/-- Settles O32: the row of a command compares the code (`matchRequest_of_met_unphased`), and a code that no row of the table
compares meets none (`matchRequest_of_foreign_code`). -/
theorem functionCodeSelects : Obligations.FunctionCodeSelects := by
  intro q s c dst hlive hcs hc hdst
  refine ⟨fun h => ?defaults, fun hcode => ⟨fun ht hreal => ?ctrl, ?execCtrl⟩, fun hne ht hreal => ?notCtrl,
    fun hcode => ⟨fun ht hreal => ?mc, ?execMc⟩, fun hcode => ⟨fun ht hreal => ?lcd, ?execLcd⟩,
    fun hnotMc hnotLcd ht hreal => ?notMc⟩
  case defaults => subst h; decide
  case ctrl =>
    exact matchRequest_of_met_unphased (j := 3) hc hdst rfl rfl ht hreal (length_pos_of_code hcode) (code_of_some hcode)
  case mc =>
    exact matchRequest_of_met_unphased (j := 5) hc hdst rfl rfl ht hreal (length_pos_of_code hcode) (code_of_some hcode)
  case lcd =>
    exact matchRequest_of_met_unphased (j := 6) hc hdst rfl rfl ht hreal (length_pos_of_code hcode) (code_of_some hcode)
  case notCtrl => exact matchRequest_of_foreign_code (j := 3) hc hdst rfl ht hreal (by simpa [tableFuncs] using hne)
  case notMc => exact matchRequest_of_foreign_code (j := 5) hc hdst rfl ht hreal (by simp [tableFuncs, hnotMc, hnotLcd])
  case execCtrl => exact exec_getcondCtrl hlive (hcs ▸ hcode)
  case execMc => exact exec_getmediaMc hlive (hcs ▸ hcode)
  case execLcd => exact exec_getmediaLcd hlive (hcs ▸ hcode)

/-- Settles O33: the payload is the code, the address word, one phase and what is ignored; the row's Phase test is that of the
meaning. -/
theorem cardWriteForwardsOnePhase : Obligations.CardWriteForwardsOnePhase := by
  intro q a data extra s c dst hlive hcs hc hdst hdata hq
  replace hq : q.payload = c.funcMemoryCard :: a :: (data ++ extra) := hq
  have hcode : q.payload[0]? = some c.funcMemoryCard := by rw [hq]; rfl
  have hwords : 34 ≤ q.payload.length := by simp [hq, hdata]
  have hmatch (ht : routeTo c dst = some .mc) (hreal : 0 < c.cmdBlockWrite.toInt) :=
    matchRequest_of_met_write (j := 8) hc hdst rfl rfl ht hreal hwords (code_of_some hcode) hq
  refine ⟨fun h => ?defaults, fun hphase => ⟨fun ht hreal => (hmatch ht hreal).trans (if_pos hphase), ?exec⟩,
    fun ht hreal => ⟨fun hphase => (hmatch ht hreal).trans (if_neg (Nat.not_le.mpr hphase)), fun r hcode hshort => ?short⟩⟩
  case defaults => subst h; decide
  case exec =>
    have hsent : (q.payload.drop 2).take 32 = data := by rw [hq]; exact List.take_left' hdata
    rw [exec_bwriteMc hlive (hcs ▸ hcode) hwords (Req.word_one hq ▸ hphase), Req.word_one hq, hsent]
    rfl
  case short => exact matchRequest_of_short (j := 8) hc hdst rfl ht hreal (code_of_some hcode) hshort

/-- Settles O34: the LCD row has no Phase test, and its meaning forwards what follows the address. -/
theorem lcdWriteForwardsAllWords : Obligations.LcdWriteForwardsAllWords := by
  intro q s c dst hlive hcs hc hdst
  refine ⟨fun h => ?defaults, fun a d data hq => ?forwards, fun ht hreal => ⟨fun hcode hshort => ?short,
    fun hnotMc hnotLcd => ?foreign⟩⟩
  case defaults => subst h; decide
  case forwards =>
    have hcode : q.payload[0]? = some c.funcLcd := by rw [hq]; rfl
    have hwords : 3 ≤ q.payload.length := by simp [hq]
    refine ⟨fun ht hreal => ?matched, ?exec⟩
    case matched => exact matchRequest_of_met_unphased (j := 9) hc hdst rfl rfl ht hreal hwords (code_of_some hcode)
    case exec =>
      rw [exec_bwriteLcd hlive (hcs ▸ hcode) hwords, Req.word_one hq, hq]
      rfl
  case short => exact matchRequest_of_short (j := 9) hc hdst rfl ht hreal (code_of_some hcode) hshort
  case foreign => exact matchRequest_of_foreign_code (j := 9) hc hdst rfl ht hreal (by simp [tableFuncs, hnotMc, hnotLcd])

/-- Settles O35: the rows of the two units allow Phase 0 only, and a free block begins the read
(`State.beginRead_of_free`). -/
theorem blockReadBegins : Obligations.BlockReadBegins := by
  intro q s c dst hlive _ hc hdst
  refine ⟨fun h => ?defaults, fun hreal => ⟨fun f a extra hq => ?matched, fun hshort ht => ?short⟩,
    fun f a extra hq hphase hfree => ?begins⟩
  case defaults => subst h; decide
  case matched =>
    have hwords : 2 ≤ q.payload.length := by simp [hq]
    have hcard (ht : routeTo c dst = some .mc) :=
      matchRequest_of_met_onePhase (j := 10) hc hdst rfl rfl ht hreal hwords nofun hq
    have hvib (ht : routeTo c dst = some .vib) :=
      matchRequest_of_met_onePhase (j := 11) hc hdst rfl rfl ht hreal hwords nofun hq
    refine ⟨fun hphase => ⟨fun ht => (hcard ht).trans (if_pos hphase), fun ht => (hvib ht).trans (if_pos hphase)⟩,
      fun hphase ht => ?_⟩
    rcases ht with ht | ht
    · exact (hcard ht).trans (if_neg hphase)
    · exact (hvib ht).trans (if_neg hphase)
  case short =>
    rcases ht with ht | ht
    · exact matchRequest_of_short (j := 10) hc hdst rfl ht hreal nofun hshort
    · exact matchRequest_of_short (j := 11) hc hdst rfl ht hreal nofun hshort
  case begins =>
    obtain ⟨hcard, hvib⟩ := exec_bread hlive hq hphase
    rw [hcard, hvib, State.beginRead_of_free hfree, State.beginRead_of_free hfree]
    exact ⟨rfl, rfl⟩

/-- Settles O36: a read that is outstanding makes the begin of a second one the fatal (`State.beginRead_of_outstanding`). -/
theorem secondBlockReadHalts : Obligations.SecondBlockReadHalts := by
  intro q s f a extra hlive houtstanding hq hphase
  obtain ⟨hcard, hvib⟩ := exec_bread hlive hq hphase
  rw [hcard, hvib, State.beginRead_of_outstanding houtstanding, State.beginRead_of_outstanding houtstanding,
    State.raiseFatal_of_live hlive]
  exact ⟨rfl, rfl⟩

/-- Settles O37: the matcher tests what the rows of the three commands list, and under the same conditions their meanings hand
the words over. -/
theorem unitWritesForwardTheirWords : Obligations.UnitWritesForwardTheirWords := by
  intro q s c dst hlive _ hc hdst
  refine ⟨fun h => ?defaults, fun f a d data hq hphase => ?write, fun f a extra hq => ⟨fun hphase => ?complete, ?set⟩,
    fun ht hreal => ⟨fun f a d data hq => ?matchWrite, fun hshort => ?shortWrite⟩,
    fun ht hreal => ⟨fun f a extra hq => ?matchComplete, fun hshort => ?shortComplete⟩,
    fun ht hreal => ⟨fun hwords => ?matchSet, fun hshort => ?shortSet⟩⟩
  case defaults => subst h; decide
  case write =>
    rw [exec_bwriteVib hlive (by simp [hq]) (Req.word_one hq ▸ hphase), Req.word_one hq, hq]
    rfl
  case complete =>
    rw [exec_bcompleteMc hlive (by simp [hq]) (Req.word_one hq ▸ hphase), Req.word_one hq]
    rfl
  case set =>
    rw [exec_setcondVib hlive (by simp [hq]), Req.word_one hq]
    rfl
  case matchWrite => exact matchRequest_of_met_write (j := 12) hc hdst rfl rfl ht hreal (by simp [hq]) nofun hq
  case shortWrite => exact matchRequest_of_short (j := 12) hc hdst rfl ht hreal nofun hshort
  case matchComplete => exact matchRequest_of_met_onePhase (j := 13) hc hdst rfl rfl ht hreal (by simp [hq]) nofun hq
  case shortComplete => exact matchRequest_of_short (j := 13) hc hdst rfl ht hreal nofun hshort
  case matchSet => exact matchRequest_of_met_unphased (j := 14) hc hdst rfl rfl ht hreal hwords nofun
  case shortSet => exact matchRequest_of_short (j := 14) hc hdst rfl ht hreal nofun hshort

end Sys2Proof.Machine

/-! SUPPORT. A dispatch turn that finds a packet (45_response_mux R310): the packet part, then the operation of the pending
selector unless the packet part raised a fatal, then the idle output. -/

namespace Sys2Proof.Machine

/-! ### The parts of the turn -/

theorem dispatchStep_of_packet {s : State} {endOff : Nat} {rest : List Nat} (h : s.handoff = endOff :: rest) :
    dispatchStep s = andThen (packetPart s endOff rest) fun t => andThen (schedTry t) fun u => .next (u.reportIdle false) := by
  simp only [dispatchStep, h]

theorem schedTry_of_halted {s : State} (h : s.fatal = true) : schedTry s = .next s := if_pos h

theorem schedTry_of_reserved {s : State} (hlive : s.fatal = false) (h : decodeSel s.cfg s.sel = none) :
    schedTry s = .refused .reservedSelector := by
  simp [schedTry, hlive, h]

theorem State.reportIdle_of_halted {s : State} (h : s.fatal = true) (idle : Bool) : s.reportIdle idle = s := if_pos h

theorem decode_of_decodeSel {p : Config.Params} {x : BitVec 4} {i : Instr} (h : decodeSel p x = some i) :
    decode p (.sel x) = .ok i := by
  simp [decode, h]

/-- What follows the packet part: the scheduler, the idle output, and the next input is due. -/
def finishPacketTurn (s : State) : Result := andThen (schedTry s) fun t => .next (t.reportIdle false).advance

/-- A fatal of the packet part ends the turn (60_exceptions R340). -/
theorem finishPacketTurn_of_halted {s : State} (h : s.fatal = true) : finishPacketTurn s = .next s.advance := by
  rw [finishPacketTurn, schedTry_of_halted h, andThen_of_next, State.reportIdle_of_halted h]

theorem finishPacketTurn_of_reserved {s : State} (hlive : s.fatal = false) (h : decodeSel s.cfg s.sel = none) :
    finishPacketTurn s = .refused .reservedSelector := by
  rw [finishPacketTurn, schedTry_of_reserved hlive h]
  rfl

/-- A live block runs the operation of the pending selector, which raises no fatal (`exec_decodeSel_keeps`), and clears the idle
output. -/
theorem finishPacketTurn_of_selected {s : State} {j : Instr} (hlive : s.fatal = false) (h : decodeSel s.cfg s.sel = some j) :
    finishPacketTurn s =
      andThen (exec j s) fun t => .next { t with idleOpportunity := false, script := t.script.tail, tick := t.tick + 1 } := by
  rw [finishPacketTurn, schedTry_of_live hlive h]
  refine andThen_congr fun t ht => ?_
  rw [State.reportIdle_of_live (exec_decodeSel_keeps h ht).1]
  rfl

/-- A dispatch turn with built templates and a packet in the handoff is the packet part and what follows it. -/
theorem step_of_packet {s : State} {endOff : Nat} {rest : List Nat} (ha : s.inadmissible = none) (hlive : s.fatal = false)
    (hr : s.input.rst = false) (hg : s.input.agent = .dispatch) (hbuilt : s.templatesBuilt = true)
    (hq : s.handoff = endOff :: rest) :
    step s = andThen (packetPart s.intake endOff rest) finishPacketTurn := by
  rw [step_of_dispatch ha hlive hr hg, dispatchTurn_of_built (s := s.intake) hbuilt, dispatchStep_of_packet (s := s.intake) hq,
    andThen_assoc]
  exact andThen_congr fun t _ => andThen_assoc ..

/-! ### The statement -/

/-- Settles O46: the request in the registers is the one the bytes decode to (`registersCarryTheRequest`); a dropped packet leaves
the selector as it was, and an admitted state has an operation for it. -/
theorem stepRunsReceivedRequest : Obligations.StepRunsReceivedRequest := by
  intro s c endOff rest ha hlive hr hg hbuilt hq hcopied
  have hstep := step_of_packet ha hlive hr hg hbuilt hq
  obtain ⟨raw, rawlen, oversize, hcopy⟩ := s.intake.copyOut_eq endOff rest
  have hkept : c.cfg = s.cfg ∧ c.fatal = s.fatal ∧ c.sel = s.sel := by
    rw [← hcopied, hcopy]
    exact ⟨rfl, rfl, rfl⟩
  obtain ⟨hcfg, hfatal, hsel⟩ := hkept
  subst hcopied
  refine ⟨fun t i hvalid hi => ?runs, fun hdrop => ?drops⟩
  case runs =>
    have hreq := registersCarryTheRequest _ t hvalid
    rw [hcfg, hi] at hreq
    obtain rfl := Except.ok.inj hreq
    rw [hstep, packetPart_of_valid hvalid]
    refine andThen_congr fun u _ => ?_
    split
    · next hhalted => exact finishPacketTurn_of_halted hhalted
    · next hrunning =>
      have hrunning := Bool.eq_false_iff.mpr hrunning
      cases hj : decodeSel u.cfg u.sel with
      | none => exact finishPacketTurn_of_reserved hrunning hj
      | some j => exact finishPacketTurn_of_selected hrunning hj
  case drops =>
    have hadmitted := State.inadmissible_none_iff.mp ha
    obtain ⟨j, hj⟩ := Option.isSome_iff_exists.mp (decodeSel_isSome.mpr ⟨hadmitted.selCount, hadmitted.selNamed⟩)
    refine ⟨j, decode_of_decodeSel hj, ?_⟩
    rw [hstep, packetPart_of_dropped hdrop, andThen_of_next]
    exact finishPacketTurn_of_selected (hfatal.trans hlive) (by rw [hcfg, hsel, hj])

end Sys2Proof.Machine

/-! SUPPORT. The operations of the pending selector (45_response_mux R298 to R323): a busy transmitter leaves the selection
pending; a free one gets the image of the selector, a static one as it stands and a dynamic one with the words of one request. -/

namespace Sys2Proof.Machine

/-! ### The operation is `SCHED.TRY` -/

/-- In a live block a pending selector's operation is `SCHED.TRY` for its value (R305). -/
theorem exec_of_pending {p : Config.Params} {x : BitVec 4} {i : Instr} {s : State} (h : decodeSel p x = some i)
    (hx : x ≠ selNothing) (hlive : s.fatal = false) : exec i s = trySend x s := by
  rw [exec_of_decodeSel h, whenLive_of_live hlive, if_neg hx]

/-! ### The shape of an image -/

section Shape

variable {cfg : Config.Params} {x : BitVec 4}

/-- Four selector values have a dynamic window (R297). -/
theorem dynLen_eq_none_iff :
    dynLen cfg x = none ↔ x ≠ selCtrlStatus ∧ x ≠ selMcBlockdata ∧ x ≠ selVibCondition ∧ x ≠ selVibAstdata := by
  simp only [dynLen, ite_some_none, ne_eq, and_true]

theorem imageFits_of_static {img : List Word} (h : dynLen cfg x = none) :
    imageFits cfg x img = true ↔ 3 ≤ img.length ∧ img.length ≤ 258 := by
  simp [imageFits, h]

theorem imageFits_of_dynamic {img : List Word} {len : Nat} (h : dynLen cfg x = some len) :
    imageFits cfg x img = true ↔ img.length = len + 4 := by
  simp [imageFits, h]

/-- The count word of a well-formed image: all but the count word, the header and the checksum word is payload (R293). -/
theorem imageWellFormed_countWord {w0 h : Word} {rest : List Word} (hw : imageWellFormed cfg x (w0 :: h :: rest) = true) :
    w0 = wireFrameWordCount (rest.length - 1) := by
  obtain ⟨v, hd, c, payload, hparts⟩ := imageFits_parts (imageWellFormed_fits hw)
  obtain ⟨rfl, rfl, rfl⟩ : w0 = v ∧ h = hd ∧ rest = payload ++ [c] := by simpa using hparts
  obtain ⟨-, hcount, -⟩ := imageWellFormed_iff.mp hw
  rw [hcount, List.length_append, List.length_singleton, Nat.add_sub_cancel]

end Shape

/-! ### What is built -/

theorem muxImage_of_static {s : State} {x : BitVec 4} (h : dynLen s.cfg x = none) (img : List Word) :
    muxImage x s img = img := by
  simp [muxImage, h]

/-- A dynamic image keeps count word, header and function code; the words of the window and the checksum word are fresh
(R298, R301). -/
theorem muxImage_of_dynamic {s : State} {x : BitVec 4} {len : Nat} (h : dynLen s.cfg x = some len) (w0 hd f : Word)
    (rest : List Word) :
    muxImage x s (w0 :: hd :: f :: rest) = w0 :: hd :: f :: (s.dynWords x ++ [cks (hd :: f :: s.dynWords x)]) := by
  simp [muxImage, h]

theorem State.dynRequest_of_static {s : State} {x : BitVec 4} (h : dynLen s.cfg x = none) : s.dynRequest x = none := by
  obtain ⟨hstatus, hcard, hcond, hast⟩ := dynLen_eq_none_iff.mp h
  simp [State.dynRequest, hstatus, hcard, hcond, hast]

/-! ### What is sent -/

section Sent

variable {s : State} {x : BitVec 4} {img out : List Word}

/-- Acceptance ends an outstanding read where the response carries its block (R309). -/
theorem State.accept_of_block (h : x = selMcBlockdata ∨ x = selVibAstdata) :
    s.accept x = { s with readOutstanding := false, sel := 0 } := by
  rw [State.accept, if_pos h]
  rfl

theorem State.accept_of_blockless (hcard : x ≠ selMcBlockdata) (hast : x ≠ selVibAstdata) :
    s.accept x = { s with sel := 0 } := by
  rw [State.accept, if_neg (not_or.mpr ⟨hcard, hast⟩)]
  rfl

/-- A free transmitter: the flag is read, the words are requested where the image is dynamic, and the patched image is started
and accepted (R305, R298, R309). -/
theorem trySend_of_image (hfree : s.input.txBusy = false) (himg : s.image x = some img)
    (hfits : imageFits s.cfg x img = true) (hout : out = patchPort s.cfg.portShift s.activePort (muxImage x s img)) :
    trySend x s =
      .next ({ s with
        out := out
        envLog := s.envLog ++ EnvRequest.txBusy :: ((s.dynRequest x).toList ++ [EnvRequest.txStart out]) }.accept x) := by
  have hbuilt : (s.request .txBusy).muxBuild x img =
      { s with out := out, envLog := s.envLog ++ EnvRequest.txBusy :: (s.dynRequest x).toList } := by
    have hrequest : (s.request .txBusy).dynRequest x = s.dynRequest x := rfl
    have himage : muxImage x (s.request .txBusy) img = muxImage x s img := rfl
    rw [State.muxBuild, hrequest, himage, hout]
    cases s.dynRequest x <;> simp [State.request]
  rw [trySend_free hfree himg hfits, hbuilt]
  simp [State.request]

/-- A static response goes out as its template stands, but for the port. -/
theorem trySend_of_static {w0 h : Word} {rest : List Word} (hfree : s.input.txBusy = false) (hdyn : dynLen s.cfg x = none)
    (himg : s.image x = some (w0 :: h :: rest)) (hmin : 1 ≤ rest.length) (hmax : rest.length ≤ 256)
    (hout : out = w0 :: patchHeader s.cfg.portShift h s.activePort :: rest) :
    trySend x s = .next { s with out := out, envLog := s.envLog ++ [.txBusy, .txStart out], sel := 0 } := by
  obtain ⟨-, hcard, -, hast⟩ := dynLen_eq_none_iff.mp hdyn
  have hfits : imageFits s.cfg x (w0 :: h :: rest) = true :=
    (imageFits_of_static hdyn).mpr (by simp only [List.length_cons]; omega)
  rw [trySend_of_image (out := out) hfree himg hfits (by rwa [muxImage_of_static hdyn]), State.dynRequest_of_static hdyn,
    State.accept_of_blockless hcard hast]
  rfl

/-- A dynamic response makes one request and carries its words behind the function code. -/
theorem trySend_of_dynamic {w0 h f : Word} {rest : List Word} {len : Nat} {r : EnvRequest} (hfree : s.input.txBusy = false)
    (hdyn : dynLen s.cfg x = some len) (hreq : s.dynRequest x = some r) (himg : s.image x = some (w0 :: h :: f :: rest))
    (hlen : rest.length = len + 1)
    (hout : out = w0 :: patchHeader s.cfg.portShift h s.activePort :: f ::
      (s.dynWords x ++ [cks (h :: f :: s.dynWords x)])) :
    trySend x s =
      .next ({ s with out := out, envLog := s.envLog ++ [EnvRequest.txBusy, r, .txStart out] }.accept x) := by
  have hfits : imageFits s.cfg x (w0 :: h :: f :: rest) = true :=
    (imageFits_of_dynamic hdyn).mpr (by simp only [List.length_cons]; omega)
  rw [trySend_of_image (out := out) hfree himg hfits (by rwa [muxImage_of_dynamic hdyn]), hreq]
  rfl

end Sent

/-! ### The statements -/

/-- Settles O39. -/
theorem nothingSelectedSendsNothing : Obligations.NothingSelectedSendsNothing :=
  fun _ hlive => whenLive_of_live hlive _

/-- Each of the eight static operations belongs to the selector value of its image, which has no dynamic window (R113, R297). -/
theorem decodeSel_of_static {i : Instr} {k : Nat}
    (h : (i, k) ∈ [(Instr.selCtrlDevinfo, 1), (.selMcDevinfo, 3), (.selMcMediainfo, 4), (.selLcdMediainfo, 5), (.selMcAck, 7),
      (.selVibDevinfo, 8), (.selVibMediainfo, 9), (.selVibAck, 12)]) :
    ∃ x : BitVec 4, decodeSel defaultParams x = some i ∧ x.toNat = k ∧ x ≠ selNothing ∧ ∀ cfg, dynLen cfg x = none := by
  simp only [List.mem_cons, List.not_mem_nil, or_false, Prod.mk.injEq] at h
  rcases h with ⟨rfl, rfl⟩ | ⟨rfl, rfl⟩ | ⟨rfl, rfl⟩ | ⟨rfl, rfl⟩ | ⟨rfl, rfl⟩ | ⟨rfl, rfl⟩ | ⟨rfl, rfl⟩ | ⟨rfl, rfl⟩
  · exact ⟨selCtrlDevinfo, rfl, rfl, by decide, fun _ => rfl⟩
  · exact ⟨selMcDevinfo, rfl, rfl, by decide, fun _ => rfl⟩
  · exact ⟨selMcMediainfo, rfl, rfl, by decide, fun _ => rfl⟩
  · exact ⟨selLcdMediainfo, rfl, rfl, by decide, fun _ => rfl⟩
  · exact ⟨selMcAck, rfl, rfl, by decide, fun _ => rfl⟩
  · exact ⟨selVibDevinfo, rfl, rfl, by decide, fun _ => rfl⟩
  · exact ⟨selVibMediainfo, rfl, rfl, by decide, fun _ => rfl⟩
  · exact ⟨selVibAck, rfl, rfl, by decide, fun _ => rfl⟩

/-- Settles O40: a selector value without a dynamic window sends its template at the active port (`trySend_of_static`). -/
theorem staticResponsesSendTheirImage : Obligations.StaticResponsesSendTheirImage := by
  intro s i k w0 h rest hrow hlive hfree himg hmin hmax
  obtain ⟨x, hi, rfl, hx, hdyn⟩ := decodeSel_of_static hrow
  exact ⟨_, rfl, (exec_of_pending hi hx hlive).trans (trySend_of_static hfree (hdyn _) himg hmin hmax rfl)⟩

/-- Settles O41: the window of a sampled response is the words of its request (`trySend_of_dynamic`), and its acceptance ends no
read. -/
theorem sampledResponsesSendFreshWords : Obligations.SampledResponsesSendFreshWords := by
  intro s w0 h f rest hlive hfree
  refine ⟨fun himg hlen => ⟨_, rfl, ?status⟩, fun himg hlen => ⟨_, rfl, ?condition⟩⟩
  case status =>
    rw [exec_of_pending (p := defaultParams) (x := selCtrlStatus) rfl (by decide) hlive,
      trySend_of_dynamic (x := selCtrlStatus) hfree rfl rfl himg hlen rfl, State.accept_of_blockless (by decide) (by decide)]
    rfl
  case condition =>
    rw [exec_of_pending (p := defaultParams) (x := selVibCondition) rfl (by decide) hlive,
      trySend_of_dynamic (x := selVibCondition) hfree rfl rfl himg hlen rfl, State.accept_of_blockless (by decide) (by decide)]
    rfl

/-- Settles O42: the window of a block response is the read address and the words of its request (`trySend_of_dynamic`), and its
acceptance ends the read. -/
theorem blockResponsesEchoAddress : Obligations.BlockResponsesEchoAddress := by
  intro s w0 h f rest hlive hfree
  refine ⟨fun himg hlen => ⟨fun hw => ?count, _, rfl, ?card⟩, fun himg hlen => ⟨_, rfl, ?vibration⟩⟩
  case count =>
    have hcount := imageWellFormed_countWord hw
    rw [List.length_cons, hlen] at hcount
    exact hcount
  case card =>
    rw [exec_of_pending (p := defaultParams) (x := selMcBlockdata) rfl (by decide) hlive,
      trySend_of_dynamic (x := selMcBlockdata) hfree rfl rfl himg hlen rfl, State.accept_of_block (.inl rfl)]
    rfl
  case vibration =>
    have hwindow : rest.length = 1 + s.cfg.astWords + 1 := by omega
    rw [exec_of_pending (p := defaultParams) (x := selVibAstdata) rfl (by decide) hlive,
      trySend_of_dynamic (x := selVibAstdata) hfree rfl rfl himg hwindow rfl, State.accept_of_block (.inr rfl)]
    rfl

/-- Settles O43: `SCHED.TRY` reads the flag first (`trySend_busy`). -/
theorem busyTransmitterKeepsSelection : Obligations.BusyTransmitterKeepsSelection :=
  fun _ x _ hlive hbusy hx hi => (exec_of_pending hi hx hlive).trans (trySend_busy hbusy x)

end Sys2Proof.Machine

/-! SUPPORT. The fatal halt (60_exceptions R331, R340, R342): after a fatal no meaning runs and a turn only takes in what the
environment observed; a turn of a live block that raises a fatal records a cause of its own agent. -/

namespace Sys2Proof.Machine

/-! ### The frozen block (R340, R342) -/

theorem whenLive_of_halted {s : State} (h : s.fatal = true) (r : Result) : whenLive s r = .fault (.halted s.fatalCause) :=
  if_pos h

/-- Every meaning is guarded by `fatal = 0` (R340). -/
theorem exec_guarded (i : Instr) (s : State) : ∃ r, exec i s = whenLive s r := by
  cases i <;> exact ⟨_, rfl⟩

theorem agentTurn_of_halted {s : State} (h : s.fatal = true) : agentTurn s = .next s := if_pos h

/-- Settles O49: the turn of a halted block is what the sample source takes in and the bookkeeping of the turn
(`agentTurn_of_halted`), and the guard of every meaning answers the fault (`exec_guarded`). -/
theorem haltedBlockIsFrozen : Obligations.HaltedBlockIsFrozen := by
  intro s hhalted
  refine ⟨fun ha hr => ?turn, fun i => ?meaning⟩
  case turn =>
    rw [step_of_unreset ha hr, agentTurn_of_halted (s := s.intake) hhalted]
    rfl
  case meaning =>
    obtain ⟨r, hr⟩ := exec_guarded i s
    rw [hr, whenLive_of_halted hhalted]

/-! ### The causes of the capture agent (R331) -/

/-- From a live `s` the capture agent has come to `t`: the loss it knew of is still the one of `s`, and a fatal has one of the
agent's three causes. -/
structure CaptureCauses (s t : State) : Prop where
  srcOverrun : t.srcOverrun = s.srcOverrun
  cause : t.fatal = true → t.fatalCause = 1 ∨ t.fatalCause = 3 ∨ (t.fatalCause = 2 ∧ s.srcOverrun = true)

theorem CaptureCauses.of_live {s t : State} (hlive : t.fatal = false) (hsrc : t.srcOverrun = s.srcOverrun) :
    CaptureCauses s t :=
  ⟨hsrc, fun hhalted => by simp [hlive] at hhalted⟩

/-- A raised fatal keeps an earlier cause, so only its own code is to be named. -/
theorem CaptureCauses.raiseFatal {s t : State} (h : CaptureCauses s t) {code : BitVec 3}
    (hcode : code = 1 ∨ code = 3 ∨ (code = 2 ∧ s.srcOverrun = true)) : CaptureCauses s (t.raiseFatal code) := by
  refine ⟨h.srcOverrun, fun _ => ?_⟩
  rw [State.raiseFatal_fatalCause]
  split
  · next hhalted => exact h.cause hhalted
  · exact hcode

theorem CaptureCauses.actPush {s t : State} (h : CaptureCauses s t) (nxt : Byte) : CaptureCauses s (t.actPush nxt) := by
  rcases t.actPush_cases nxt with ⟨-, hpush⟩ | ⟨-, hpush⟩ <;> rw [hpush]
  · exact h.raiseFatal (.inr (.inl rfl))
  · exact ⟨h.srcOverrun, h.cause⟩

theorem CaptureCauses.actEnd {s t : State} (h : CaptureCauses s t) : CaptureCauses s t.actEnd := by
  rcases t.actEnd_cases with ⟨-, hend⟩ | ⟨-, -, hend⟩ | ⟨-, -, hend⟩ <;> rw [hend]
  · exact h
  · exact h.raiseFatal (.inl rfl)
  · exact ⟨h.srcOverrun, h.cause⟩

theorem CaptureCauses.overrunCheck {s t : State} (h : CaptureCauses s t) : CaptureCauses s t.overrunCheck := by
  rcases t.overrunCheck_cases with ⟨-, hcheck⟩ | ⟨hlost, hcheck⟩ <;> rw [hcheck]
  · exact h
  · exact h.raiseFatal (.inr (.inr ⟨rfl, h.srcOverrun ▸ hlost⟩))

theorem CaptureCauses.decStep {s t : State} (h : CaptureCauses s t) (e : Tte) (row : Byte × Byte) :
    CaptureCauses s (t.decStep e row) :=
  State.decStep_keeps (P := CaptureCauses s) h
    (next := fun _ hu => ⟨hu.srcOverrun, hu.cause⟩)
    (reset := fun _ hu => ⟨hu.srcOverrun, hu.cause⟩)
    (or := fun _ hu => ⟨hu.srcOverrun, hu.cause⟩)
    (push := fun _ hu => hu.actPush _)
    (endPkt := fun _ hu => hu.actEnd)
    (error := fun _ hu => ⟨hu.srcOverrun, hu.cause⟩)
    (overrun := fun _ hu => hu.overrunCheck)

theorem captureTurn_causes {s t : State} (hlive : s.fatal = false) (h : captureTurn s = .next t) : CaptureCauses s t := by
  rcases captureTurn_next h with ⟨-, rfl⟩ | ⟨p0, p1, p2, p3, rest, -, h⟩
  · exact .of_live hlive rfl
  · obtain ⟨-, e, row, -, -, -, rfl⟩ := execSample_next.mp h
    refine CaptureCauses.decStep ?_ e row
    exact .of_live hlive rfl

/-! ### The cause of the dispatch agent (R331, R335) -/

/-- `t` is halted because a block read was to begin while the one of `s` was outstanding; that read and the selection are as
they were. -/
structure HaltedByRead (s t : State) : Prop where
  cause : t.fatalCause = 4
  outstanding : s.readOutstanding = true
  sel : t.sel = s.sel
  readAddr : t.readAddr = s.readAddr
  readUnit : t.readUnit = s.readUnit

theorem State.beginRead_halts {s : State} {a : Word} {u : ReadUnit} {x : BitVec 4} (hlive : s.fatal = false)
    (h : (s.beginRead a u x).fatal = true) : HaltedByRead s (s.beginRead a u x) := by
  rcases s.beginRead_cases a u x with ⟨hout, hread⟩ | ⟨-, hread⟩
  · rw [hread, State.raiseFatal_of_live hlive]
    exact ⟨rfl, hout, rfl, rfl, rfl⟩
  · rw [hread] at h
    exact absurd h (Bool.eq_false_iff.mp hlive)

/-- Of the effects of the dispatch agent's operations only the begin of a block read can raise a fatal. -/
theorem DispatchEffect.halts {s t : State} (h : DispatchEffect s t) (hlive : s.fatal = false) (hhalted : t.fatal = true) :
    HaltedByRead s t := by
  have running : s.fatal ≠ true := Bool.eq_false_iff.mp hlive
  cases h with
  | nothing | selects | hands | waits => exact absurd hhalted running
  | readsCard | readsVib => exact State.beginRead_halts hlive hhalted
  | sends => exact absurd (by simpa using hhalted) running

/-- A packet part that raises a fatal ran a request, since the copy-out and the parse touch neither the selection nor the
read. -/
theorem packetPart_halts {s t : State} {endOff : Nat} {rest : List Nat} (hlive : s.fatal = false)
    (h : packetPart s endOff rest = .next t) (hhalted : t.fatal = true) : HaltedByRead s t := by
  obtain ⟨raw, rawlen, oversize, hcopy⟩ := s.copyOut_eq endOff rest
  rcases packetPart_next h with ⟨-, rfl⟩ | ⟨u, hu, h⟩
  · rw [hcopy] at hhalted
    exact absurd hhalted (Bool.eq_false_iff.mp hlive)
  · rw [hcopy] at hu
    obtain ⟨-, hd, ws, -, rfl⟩ := State.validate_some.mp hu
    have hread := (exec_dispatchEffect (State.pendingRequest_ofCapture _) h).2.halts hlive hhalted
    exact ⟨hread.cause, hread.outstanding, hread.sel, hread.readAddr, hread.readUnit⟩

/-- The scheduler raises no fatal of its own (`exec_decodeSel_keeps`), and after one it does nothing. -/
theorem schedTry_halted {s t : State} (h : schedTry s = .next t) (hhalted : t.fatal = true) : s.fatal = true ∧ t = s := by
  rcases schedTry_next h with hs | ⟨-, i, hi, h⟩
  · exact hs
  · exact absurd hhalted (Bool.eq_false_iff.mp (exec_decodeSel_keeps hi h).1)

theorem State.reportIdle_fatal (s : State) (idle : Bool) : (s.reportIdle idle).fatal = s.fatal := by
  unfold State.reportIdle
  split <;> rfl

theorem dispatchTurn_halts {s t : State} (hlive : s.fatal = false) (h : dispatchTurn s = .next t) (hhalted : t.fatal = true) :
    HaltedByRead s t := by
  have running : s.fatal ≠ true := Bool.eq_false_iff.mp hlive
  rcases dispatchTurn_next h with ⟨-, rfl⟩ | ⟨-, h⟩
  · exact absurd hhalted running
  · rcases dispatchStep_next h with ⟨-, u, hu, rfl⟩ | ⟨endOff, rest, u, v, -, hu, hv, rfl⟩
    · rw [State.reportIdle_fatal] at hhalted
      exact absurd (schedTry_halted hu hhalted).1 running
    · rw [State.reportIdle_fatal] at hhalted
      obtain ⟨hpacket, rfl⟩ := schedTry_halted hv hhalted
      rw [State.reportIdle_of_halted hpacket]
      exact packetPart_halts hlive hu hpacket

/-- Settles O54: a fatal is raised in an agent's turn, with the causes of that agent (`captureTurn_causes`,
`dispatchTurn_halts`); the loss behind cause 2 was known before the turn or came in with it. -/
theorem fatalCausesHaveTheirAgent : Obligations.FatalCausesHaveTheirAgent := by
  intro s t h hlive hhalted
  rcases (step_next h).2 with ⟨-, rfl⟩ | ⟨-, hfrozen, -⟩ | ⟨-, -, hg, u, hu, rfl⟩ | ⟨-, -, hg, u, hu, rfl⟩
  · cases hhalted
  · exact absurd hfrozen (Bool.eq_false_iff.mp hlive)
  · have hcause := (captureTurn_causes (s := s.intake) hlive hu).cause hhalted
    exact .inl ⟨hg, hcause.imp_right (.imp_right (.imp_right (Bool.or_eq_true _ _).mp))⟩
  · have hread := dispatchTurn_halts (s := s.intake) hlive hu hhalted
    exact .inr ⟨hg, hread.cause, hread.outstanding, hread.sel, hread.readAddr, hread.readUnit⟩

end Sys2Proof.Machine

/-! SUPPORT. Reset (70_reset R370, R372, R375): the turn under `rst` takes in what the sample source observed, restores the
registers and is over; no agent steps in it. -/

namespace Sys2Proof.Machine

/-- Under reset neither agent has its turn, whether or not the block is halted (R370). -/
theorem step_of_rst {s : State} (ha : s.inadmissible = none) (hr : s.input.rst = true) :
    step s = .next s.intake.afterRst.advance := by
  simp [step, turn, ha, hr]

/-- A source that is not cleared with the reset keeps what it holds and what reached it in the turn (R375). -/
theorem State.afterRst_source_of_kept {s : State} (h : s.input.sourceCleared = false) :
    s.afterRst.srcPairs = s.srcPairs ∧ s.afterRst.srcOverrun = s.srcOverrun := by
  simp [h]

theorem State.afterRst_source_of_cleared {s : State} (h : s.input.sourceCleared = true) :
    s.afterRst.srcPairs = [] ∧ s.afterRst.srcOverrun = false := by
  simp [h]

/-- Settles O50: the turn under `rst` is `afterRst` of what came in (`step_of_rst`), whose registers are those of `State.reset`;
that a step keeps the constant memories is O53. -/
theorem rstRestoresRegisters : Obligations.RstRestoresRegisters := by
  intro s ha hr
  have hstep := step_of_rst ha hr
  exact ⟨_, hstep, rfl, rfl, rfl, rfl, rfl, rfl, rfl, rfl, rfl, rfl, rfl, rfl, rfl, rfl, rfl,
    stepKeepsConstantMemories _ _ hstep, rfl,
    State.afterRst_source_of_kept (s := s.intake), State.afterRst_source_of_cleared (s := s.intake)⟩

end Sys2Proof.Machine
